-- ==== Sys2Proof/Word.lean ====
section
/-! DEFINITION. The word and byte types of the machine (spec 00_scope.md R5, R6, R7). -/

namespace Sys2Proof

/-- One byte of a RAM word; the smallest piece an address counts (20_memory.md R40). -/
abbrev Byte := BitVec 8

/-- A 32-bit value: register contents, addresses, the program counter, instruction words
(00_scope.md R5 `XLEN`, `PCW`, `ILEN`; notes/assumptions/12). `+` and `-` wrap modulo 2^32 (R7). -/
abbrev Word := BitVec 32

end Sys2Proof
end

