-- ==== Sys2Proof/Machine/Bytes.lean ====
section
/-! DEFINITION. The byte order of the cells in which the model holds a word. The spec picks none and no program can
observe one (20_memory.md R54): DESIGN CHOICE, least significant byte at the lowest address (notes/assumptions/1). -/

namespace Sys2Proof

/-- Byte `i` of a word, byte 0 the least significant. -/
def byteOfWord (w : Word) (i : Nat) : Byte := w.extractLsb' (8 * i) 8

/-- The four bytes of a word in address order. -/
def bytesOfWord (w : Word) : List Byte := [byteOfWord w 0, byteOfWord w 1, byteOfWord w 2, byteOfWord w 3]

/-- The word whose bytes in address order are given. -/
def wordOfBytes (b0 b1 b2 b3 : Byte) : Word := b3 ++ b2 ++ b1 ++ b0

end Sys2Proof
end

