-- ==== Sys2Proof/Config.lean ====
section
/-! DEFINITION. The free values of the machine: what the environment supplies and no rule of the spec fixes
(10_state.md R29, R33; 92_eei_decisions.md D20; notes/assumptions/5). -/

namespace Sys2Proof

/-- The KEY reading the `n`-th device load since reset draws: any 4-bit value, under no law. DESIGN CHOICE
(notes/assumptions/5): a constant with no body, so nothing can be proved of its values but their width. -/
opaque Config.keyDraw (n : Nat) : BitVec 4

/-- The debounced switch reading `SWd` the `n`-th device load since reset draws: any 10-bit value. DESIGN CHOICE
(notes/assumptions/5). -/
opaque Config.switchDraw (n : Nat) : BitVec 10

end Sys2Proof
end

