-- ==== Sys2Proof/Syntax.lean ====
section
/-! DEFINITION. The 50 instructions (30_encoding.md R82) as syntax. Operands stand in the assembler's order
(47_pseudo_and_assembler.md R240): a destination is last. -/

namespace Sys2Proof

/-- A register index, the 4-bit fields RS1, RS2, RD (10_state.md R21). -/
abbrev Reg := Fin 16

/-- The 16-bit immediate field (30_encoding.md R76). -/
abbrev Imm := BitVec 16

/-- One constructor per row of the opcode table. -/
inductive Instr where
  -- ALU-R
  /-- `ADD RS2,RS1,RD` (R101). -/
  | add (rs2 rs1 rd : Reg)
  /-- `SUB RS2,RS1,RD` (R102). -/
  | sub (rs2 rs1 rd : Reg)
  /-- `AND RS2,RS1,RD` (R103). -/
  | and (rs2 rs1 rd : Reg)
  /-- `OR RS2,RS1,RD` (R104). -/
  | or (rs2 rs1 rd : Reg)
  /-- `XOR RS2,RS1,RD` (R105). -/
  | xor (rs2 rs1 rd : Reg)
  /-- `NAND RS2,RS1,RD` (R106). -/
  | nand (rs2 rs1 rd : Reg)
  /-- `NOR RS2,RS1,RD` (R107). -/
  | nor (rs2 rs1 rd : Reg)
  /-- `XNOR RS2,RS1,RD` (R108). -/
  | xnor (rs2 rs1 rd : Reg)
  -- ALU-I
  /-- `ADDI imm,RS1,RD` (R121). -/
  | addi (imm : Imm) (rs1 rd : Reg)
  /-- `SUBI imm,RS1,RD` (R122). -/
  | subi (imm : Imm) (rs1 rd : Reg)
  /-- `ANDI imm,RS1,RD` (R123). -/
  | andi (imm : Imm) (rs1 rd : Reg)
  /-- `ORI imm,RS1,RD` (R124). -/
  | ori (imm : Imm) (rs1 rd : Reg)
  /-- `XORI imm,RS1,RD` (R125). -/
  | xori (imm : Imm) (rs1 rd : Reg)
  /-- `NANDI imm,RS1,RD` (R126). -/
  | nandi (imm : Imm) (rs1 rd : Reg)
  /-- `NORI imm,RS1,RD` (R127). -/
  | nori (imm : Imm) (rs1 rd : Reg)
  /-- `XNORI imm,RS1,RD` (R128). -/
  | xnori (imm : Imm) (rs1 rd : Reg)
  /-- `MVHI imm,RD` (R129). -/
  | mvhi (imm : Imm) (rd : Reg)
  -- Load/Store
  /-- `LW imm(RS1),RD` (R141). -/
  | lw (imm : Imm) (rs1 rd : Reg)
  /-- `SW imm(RS1),RS2` (R142). -/
  | sw (imm : Imm) (rs1 rs2 : Reg)
  -- CMP-R
  /-- `F RS2,RS1,RD` (R151). -/
  | f (rs2 rs1 rd : Reg)
  /-- `EQ RS2,RS1,RD` (R152). -/
  | eq (rs2 rs1 rd : Reg)
  /-- `LT RS2,RS1,RD` (R153). -/
  | lt (rs2 rs1 rd : Reg)
  /-- `LTE RS2,RS1,RD` (R154). -/
  | lte (rs2 rs1 rd : Reg)
  /-- `T RS2,RS1,RD` (R155). -/
  | t (rs2 rs1 rd : Reg)
  /-- `NE RS2,RS1,RD` (R156). -/
  | ne (rs2 rs1 rd : Reg)
  /-- `GTE RS2,RS1,RD` (R157). -/
  | gte (rs2 rs1 rd : Reg)
  /-- `GT RS2,RS1,RD` (R158). -/
  | gt (rs2 rs1 rd : Reg)
  -- CMP-I
  /-- `FI imm,RS1,RD` (R171). -/
  | fi (imm : Imm) (rs1 rd : Reg)
  /-- `EQI imm,RS1,RD` (R172). -/
  | eqi (imm : Imm) (rs1 rd : Reg)
  /-- `LTI imm,RS1,RD` (R173). -/
  | lti (imm : Imm) (rs1 rd : Reg)
  /-- `LTEI imm,RS1,RD` (R174). -/
  | ltei (imm : Imm) (rs1 rd : Reg)
  /-- `TI imm,RS1,RD` (R175). -/
  | ti (imm : Imm) (rs1 rd : Reg)
  /-- `NEI imm,RS1,RD` (R176). -/
  | nei (imm : Imm) (rs1 rd : Reg)
  /-- `GTEI imm,RS1,RD` (R177). -/
  | gtei (imm : Imm) (rs1 rd : Reg)
  /-- `GTI imm,RS1,RD` (R178). -/
  | gti (imm : Imm) (rs1 rd : Reg)
  -- BRANCH
  /-- `BF imm,RS2,RS1` (R192). -/
  | bf (imm : Imm) (rs2 rs1 : Reg)
  /-- `BEQ imm,RS2,RS1` (R193). -/
  | beq (imm : Imm) (rs2 rs1 : Reg)
  /-- `BLT imm,RS2,RS1` (R194). -/
  | blt (imm : Imm) (rs2 rs1 : Reg)
  /-- `BLTE imm,RS2,RS1` (R195). -/
  | blte (imm : Imm) (rs2 rs1 : Reg)
  /-- `BEQZ imm,RS1` (R196). -/
  | beqz (imm : Imm) (rs1 : Reg)
  /-- `BLTZ imm,RS1` (R197). -/
  | bltz (imm : Imm) (rs1 : Reg)
  /-- `BLTEZ imm,RS1` (R198). -/
  | bltez (imm : Imm) (rs1 : Reg)
  /-- `BT imm,RS2,RS1` (R199). -/
  | bt (imm : Imm) (rs2 rs1 : Reg)
  /-- `BNE imm,RS2,RS1` (R200). -/
  | bne (imm : Imm) (rs2 rs1 : Reg)
  /-- `BGTE imm,RS2,RS1` (R201). -/
  | bgte (imm : Imm) (rs2 rs1 : Reg)
  /-- `BGT imm,RS2,RS1` (R202). -/
  | bgt (imm : Imm) (rs2 rs1 : Reg)
  /-- `BNEZ imm,RS1` (R203). -/
  | bnez (imm : Imm) (rs1 : Reg)
  /-- `BGTEZ imm,RS1` (R204). -/
  | bgtez (imm : Imm) (rs1 : Reg)
  /-- `BGTZ imm,RS1` (R205). -/
  | bgtz (imm : Imm) (rs1 : Reg)
  -- JAL
  /-- `JAL imm(RS1),RD` (R220). -/
  | jal (imm : Imm) (rs1 rd : Reg)
  deriving DecidableEq, Repr

/-- The instruction's name in the opcode table. -/
def Instr.mnemonic : Instr → String
  | .add .. => "ADD"
  | .sub .. => "SUB"
  | .and .. => "AND"
  | .or .. => "OR"
  | .xor .. => "XOR"
  | .nand .. => "NAND"
  | .nor .. => "NOR"
  | .xnor .. => "XNOR"
  | .addi .. => "ADDI"
  | .subi .. => "SUBI"
  | .andi .. => "ANDI"
  | .ori .. => "ORI"
  | .xori .. => "XORI"
  | .nandi .. => "NANDI"
  | .nori .. => "NORI"
  | .xnori .. => "XNORI"
  | .mvhi .. => "MVHI"
  | .lw .. => "LW"
  | .sw .. => "SW"
  | .f .. => "F"
  | .eq .. => "EQ"
  | .lt .. => "LT"
  | .lte .. => "LTE"
  | .t .. => "T"
  | .ne .. => "NE"
  | .gte .. => "GTE"
  | .gt .. => "GT"
  | .fi .. => "FI"
  | .eqi .. => "EQI"
  | .lti .. => "LTI"
  | .ltei .. => "LTEI"
  | .ti .. => "TI"
  | .nei .. => "NEI"
  | .gtei .. => "GTEI"
  | .gti .. => "GTI"
  | .bf .. => "BF"
  | .beq .. => "BEQ"
  | .blt .. => "BLT"
  | .blte .. => "BLTE"
  | .beqz .. => "BEQZ"
  | .bltz .. => "BLTZ"
  | .bltez .. => "BLTEZ"
  | .bt .. => "BT"
  | .bne .. => "BNE"
  | .bgte .. => "BGTE"
  | .bgt .. => "BGT"
  | .bnez .. => "BNEZ"
  | .bgtez .. => "BGTEZ"
  | .bgtz .. => "BGTZ"
  | .jal .. => "JAL"

end Sys2Proof
end

