-- ==== Sys2Proof/Machine/Params.lean ====
section
/-! DEFINITION. The implementation parameters that are numbers (00_scope.md R5): sizes, addresses, start values. -/

namespace Sys2Proof.Machine

/-- `PC_RESET`: "PC must start at (byte address) 0x40" (R5; 10_state.md R34). -/
def pcReset : Word := 0x00000040#32

/-- `REG_RESET`, OPEN in R5: the spec gives no value. DESIGN CHOICE 0, unsafe (notes/assumptions/2). -/
def regReset : Word := 0x00000000#32

/-- The start value of `HEX`, unspecified in R34. DESIGN CHOICE 0, unsafe (notes/assumptions/4). -/
def hexReset : BitVec 16 := 0x0000#16

/-- The start value of `LEDR`, unspecified in R34. DESIGN CHOICE 0, unsafe (notes/assumptions/4). -/
def ledrReset : BitVec 10 := 0x000#10

/-- What a RAM byte that is not listed reads as: `MEM_FILL`, OPEN in R5. DESIGN CHOICE 0, unsafe
(notes/assumptions/3). -/
def memFill : Byte := 0x00#8

/-- `RAM_WORDS` (R5; 20_memory.md R41). -/
def ramWords : Nat := 2048

/-- The RAM's size in bytes; with `RAM_BASE` 0 also the first address past it (R5; 20_memory.md R41;
notes/assumptions/12). -/
def ramBytes : Nat := 4 * ramWords

/-- `ADDR_HEX`, store only (R5). -/
def addrHex : Word := 0xF0000000#32

/-- `ADDR_LEDR`, store only (R5). -/
def addrLedr : Word := 0xF0000004#32

/-- `ADDR_KEY`, load only (R5). -/
def addrKey : Word := 0xF0000010#32

/-- `ADDR_SW`, load only (R5). -/
def addrSwitches : Word := 0xF0000014#32

end Sys2Proof.Machine
end

