-- ==== Sys2Proof/Machine/State.lean ====
section
/-! DEFINITION. The state of the machine (10_state.md R20), the reasons a step stops, and the state after reset. -/

namespace Sys2Proof.Machine

/-- The direction of a data access, kept with `unmappedAddress` (60_exceptions.md R272). -/
inductive Direction where
  /-- LW. -/
  | load
  /-- SW. -/
  | store
  deriving DecidableEq, Repr

/-- The closed list of model faults (60_exceptions.md R272) with what each records. None is an exception of the
hardware (00_scope.md R9): the source gives these cases no meaning and the spec decides that a model stops
(92_eei_decisions.md D15; notes/assumptions/13, 14). All are safe: the machine stops where the hardware goes on. -/
inductive Fault where
  /-- Raised by the fetch of a step when `pc[1:0] != 0` (20_memory.md R49). Safe. -/
  | misalignedFetch (pc : Word)
  /-- Raised by the fetch of a step when `pc` is aligned and above 0x1FFC (R49). Safe. -/
  | fetchOutsideRam (pc : Word)
  /-- Raised by the fetch of a step when an SW has written the word at `pc` since reset (R49, R59). Safe. -/
  | fetchOfModifiedWord (pc : Word)
  /-- Raised by the decode of a step when the word is no row of R82 (30_encoding.md R83, R84). Safe. -/
  | reservedEncoding (pc iword : Word)
  /-- Raised by LW and SW when `ea[1:0] != 0` (20_memory.md R50, R51). Safe. -/
  | misalignedData (pc ea : Word)
  /-- Raised by LW and SW when `ea` is aligned and neither RAM nor a device word of that direction
  (20_memory.md R42, R47). Safe. -/
  | unmappedAddress (pc ea : Word) (direction : Direction)
  deriving DecidableEq, Repr

/-- Reasons for which an instruction has no meaning here. Every instruction of the table has one, so nothing raises
any. -/
inductive Refusal where
  /-- An instruction not modelled, by its mnemonic: raised by no arm of `exec`. Safe. -/
  | notModelled (mnemonic : String)
  deriving DecidableEq, Repr

/-- The RAM as its listed cells: addresses strictly rising, no cell equal to `memFill` (`Memory.wf`). -/
abbrev Memory := List Host.Cell

/-- The whole state (10_state.md R20), with the bookkeeping of R32 and the model's own counter of device draws. -/
structure State where
  /-- R0..R15 (R21). -/
  regs : Vector Word 16
  /-- The byte address of the instruction being executed (R25). -/
  pc : Word
  /-- The RAM (R31; 20_memory.md R41). -/
  mem : Memory
  /-- The HEX output latch (R29). -/
  hex : BitVec 16
  /-- The LEDR output latch (R29). -/
  ledr : BitVec 10
  /-- The indices of the RAM words an SW has written since reset, strictly rising (R32). -/
  dirty : List Nat
  /-- The model's own: how many loads of KEY and the switches have happened, the argument of `Config.keyDraw` and
  `Config.switchDraw` (R29, R33; notes/assumptions/5). -/
  draws : Nat
  deriving DecidableEq, Repr

/-- The machine right after reset (10_state.md R34; 70_reset_and_hazards.md R300, R301) with no image loaded:
`pc` as the source says, every other start value as `Params` names it. -/
def State.reset : State where
  regs := Vector.replicate 16 regReset
  pc := pcReset
  mem := []
  hex := hexReset
  ledr := ledrReset
  dirty := []
  draws := 0

end Sys2Proof.Machine
end

