-- ==== Sys2Proof/Machine/Ops.lean ====
section
/-! DEFINITION. The named operations over memory and registers (00_scope.md R8; 20_memory.md R40 to R51). The
hardware takes no exception and returns from none (60_exceptions.md R270, R276, R277), so there is no operation for
either: a case that would trap is a terminal `Fault`. -/

namespace Sys2Proof.Machine

/-! ### RAM cells -/

/-- The byte at an address: the listed one, else what an unlisted address reads as. -/
def Memory.readByte : Memory → Nat → Byte
  | [], _ => memFill
  | c :: m, a => if c.1 = a then c.2 else Memory.readByte m a

/-- The memory without any cell at an address. -/
def Memory.erase (m : Memory) (a : Nat) : Memory := m.filter (fun c => c.1 != a)

/-- A cell put before the first cell of a greater address. -/
def Memory.insert (a : Nat) (b : Byte) : Memory → Memory
  | [] => [(a, b)]
  | c :: m => if a < c.1 then (a, b) :: c :: m else c :: Memory.insert a b m

/-- A byte written: no cell is listed for the value an unlisted address reads as. -/
def Memory.writeByte (m : Memory) (a : Nat) (b : Byte) : Memory :=
  if b = memFill then m.erase a else Memory.insert a b (m.erase a)

/-- The canonical form: addresses strictly rising, no cell equal to what an unlisted address reads as. -/
abbrev Memory.wf (m : Memory) : Prop :=
  m.Pairwise (fun c d => c.1 < d.1) ∧ ∀ c ∈ m, c.2 ≠ memFill

/-- Every listed cell is a byte of the RAM (20_memory.md R41). -/
abbrev Memory.inRam (m : Memory) : Prop := ∀ c ∈ m, c.1 < ramBytes

/-- The word at a byte address (byte order: notes/assumptions/1). -/
def Memory.readWord (m : Memory) (a : Nat) : Word :=
  wordOfBytes (m.readByte a) (m.readByte (a + 1)) (m.readByte (a + 2)) (m.readByte (a + 3))

/-- All 32 bits of a word replaced (20_memory.md R51). -/
def Memory.writeWord (m : Memory) (a : Nat) (v : Word) : Memory :=
  (((m.writeByte a (byteOfWord v 0)).writeByte (a + 1) (byteOfWord v 1)).writeByte (a + 2)
    (byteOfWord v 2)).writeByte (a + 3) (byteOfWord v 3)

/-! ### Registers and the program counter -/

/-- `x[i]` (00_scope.md R8). -/
def State.readReg (s : State) (r : Reg) : Word := s.regs[r]

/-- `x[i] <- v`; no register is hardwired (00_scope.md R8; 10_state.md R22). -/
def State.writeReg (s : State) (r : Reg) (v : Word) : State := { s with regs := s.regs.set r v }

/-- The address of the next instruction in sequence (10_state.md R26). -/
def State.nextPc (s : State) : Word := s.pc + 4#32

/-- `pc <- pc + 4` (10_state.md R26). -/
def State.advance (s : State) : State := { s with pc := s.nextPc }

/-- `pc <- target`; the write always succeeds (10_state.md R27). -/
def State.jump (s : State) (target : Word) : State := { s with pc := target }

/-! ### The written-since-reset bits (10_state.md R32) -/

/-- `addr[12:2]`, the index of the RAM word at a RAM address. -/
def wordIndex (addr : Word) : Nat := addr.toNat / 4

/-- An index put into a strictly rising list, once. -/
def insertIndex (k : Nat) : List Nat → List Nat
  | [] => [k]
  | j :: d => if k < j then k :: j :: d else if k = j then j :: d else j :: insertIndex k d

/-- `dirty[addr[12:2]]`. -/
def State.isDirty (s : State) (addr : Word) : Bool := s.dirty.contains (wordIndex addr)

/-- `dirty[addr[12:2]] <- true`. -/
def State.markDirty (s : State) (addr : Word) : State :=
  { s with dirty := insertIndex (wordIndex addr) s.dirty }

/-! ### The address map (20_memory.md R42) -/

/-- An address that is not a multiple of 4 (20_memory.md R53). -/
def misaligned (addr : Word) : Bool := addr.toNat % 4 != 0

/-- An address of the RAM (20_memory.md R41). -/
def inRam (addr : Word) : Bool := decide (addr.toNat < ramBytes)

/-- What stands at an address. -/
inductive Region where
  | ram
  | hex
  | ledr
  | key
  | switches
  | unmapped
  deriving DecidableEq, Repr

/-- The address map; the device windows are one word each and reached by their exact address, since alignment is
checked first (R42, R50, R51). -/
def regionOf (addr : Word) : Region :=
  if inRam addr then .ram
  else if addr = addrHex then .hex
  else if addr = addrLedr then .ledr
  else if addr = addrKey then .key
  else if addr = addrSwitches then .switches
  else .unmapped

/-! ### The access primitives -/

/-- A load from `KEY`: four drawn bits over zeros; the counter moves on (20_memory.md R48; notes/assumptions/5). -/
def State.readKey (s : State) : Word × State :=
  ((Config.keyDraw s.draws).setWidth 32, { s with draws := s.draws + 1 })

/-- A load from the switches: ten drawn bits over zeros; the counter moves on (R48; notes/assumptions/5). -/
def State.readSwitches (s : State) : Word × State :=
  ((Config.switchDraw s.draws).setWidth 32, { s with draws := s.draws + 1 })

/-- `MemRead(addr, 4)` (20_memory.md R50, R47): the word and the state with any draw consumed. -/
def memRead (addr : Word) (s : State) : Except Fault (Word × State) :=
  if misaligned addr then .error (.misalignedData s.pc addr)
  else match regionOf addr with
    | .ram => .ok (s.mem.readWord addr.toNat, s)
    | .key => .ok s.readKey
    | .switches => .ok s.readSwitches
    | .hex => .error (.unmappedAddress s.pc addr .load)
    | .ledr => .error (.unmappedAddress s.pc addr .load)
    | .unmapped => .error (.unmappedAddress s.pc addr .load)

/-- A store to a RAM word, which also sets its bit (20_memory.md R51). -/
def State.writeRam (s : State) (addr v : Word) : State :=
  { s with mem := s.mem.writeWord addr.toNat v }.markDirty addr

/-- A store to `HEX` keeps bits 15:0 (20_memory.md R45). -/
def State.writeHex (s : State) (v : Word) : State := { s with hex := v.extractLsb' 0 16 }

/-- A store to `LEDR` keeps bits 9:0 (20_memory.md R46). -/
def State.writeLedr (s : State) (v : Word) : State := { s with ledr := v.extractLsb' 0 10 }

/-- `MemWrite(addr, 4, v)` (20_memory.md R51, R47). -/
def memWrite (addr v : Word) (s : State) : Except Fault State :=
  if misaligned addr then .error (.misalignedData s.pc addr)
  else match regionOf addr with
    | .ram => .ok (s.writeRam addr v)
    | .hex => .ok (s.writeHex v)
    | .ledr => .ok (s.writeLedr v)
    | .key => .error (.unmappedAddress s.pc addr .store)
    | .switches => .error (.unmappedAddress s.pc addr .store)
    | .unmapped => .error (.unmappedAddress s.pc addr .store)

end Sys2Proof.Machine
end

