-- ==== Sys2Proof/Machine/Operands.lean ====
section
/-! DEFINITION. The operand forms: immediates, the one addressing mode, the targets of BRANCH and JAL
(30_encoding.md R76; 42_load_store.md R140; 45_branch.md R190, R206; 46_jal.md R220). -/

namespace Sys2Proof.Machine

/-- `sext_32(imm)`, for every instruction that uses the immediate as a number (30_encoding.md R76). -/
def sext32 (imm : Imm) : Word := imm.signExtend 32

/-- `sext_32(imm) << 2`, the displacement in words of BRANCH and JAL (30_encoding.md R76). -/
def scaledImm (imm : Imm) : Word := sext32 imm <<< 2

/-- `ea <- x[RS1] + sext_32(imm)`, modulo 2^32, a displacement in bytes (42_load_store.md R140). -/
def effectiveAddress (s : State) (rs1 : Reg) (imm : Imm) : Word := s.readReg rs1 + sext32 imm

/-- `pc + 4 + (sext_32(imm) << 2)`, `pc` the branch's own address (45_branch.md R190). -/
def branchTarget (pc : Word) (imm : Imm) : Word := pc + 4#32 + scaledImm imm

/-- `x[RS1] + (sext_32(imm) << 2)` (46_jal.md R220). -/
def jalTarget (s : State) (rs1 : Reg) (imm : Imm) : Word := s.readReg rs1 + scaledImm imm

/-- `mvhi(imm, old_rd)` with the decided body `imm : 0x0000` (41_alu_i.md R129; 92_eei_decisions.md D13). UNVERIFIED,
unsafe (notes/assumptions/7): the one place to change if the low half is kept. -/
def mvhiValue (imm : Imm) (_old : Word) : Word := imm ++ 0#16

end Sys2Proof.Machine
end

