-- ==== Sys2Proof/Machine/Flags.lean ====
section
/-! DEFINITION. The machine has no flags (10_state.md R28); what stands in their place are the eight conditions of
43_cmp_r.md R159, which CMP-R and CMP-I write to a register and BRANCH tests. -/

namespace Sys2Proof.Machine

/-- `s(v)`, the signed reading (00_scope.md R7). -/
def signed (v : Word) : Int := v.toInt

/-- F: never (43_cmp_r.md R151; 92_eei_decisions.md D11; notes/assumptions/15). The operands are not read. -/
def condF (_a _b : Word) : Bool := false

/-- EQ (R152). -/
def condEq (a b : Word) : Bool := decide (a = b)

/-- LT, signed (R153; 92_eei_decisions.md D10; notes/assumptions/8). -/
def condLt (a b : Word) : Bool := decide (signed a < signed b)

/-- LTE, signed (R154; D10; notes/assumptions/8). -/
def condLte (a b : Word) : Bool := decide (signed a ≤ signed b)

/-- T: always (R155; D11; notes/assumptions/15). The operands are not read. -/
def condT (_a _b : Word) : Bool := true

/-- NE (R156). -/
def condNe (a b : Word) : Bool := decide (a ≠ b)

/-- GTE, signed (R157; D10; notes/assumptions/8). -/
def condGte (a b : Word) : Bool := decide (signed a ≥ signed b)

/-- GT, signed (R158; D10; notes/assumptions/8). -/
def condGt (a b : Word) : Bool := decide (signed a > signed b)

/-- The 32-bit value 1 or 0 a comparison writes (43_cmp_r.md R150). -/
def boolWord (c : Bool) : Word := if c then 0x00000001#32 else 0x00000000#32

end Sys2Proof.Machine
end

