-- ==== Sys2Proof/Machine/AluR.lean ====
section
/-! DEFINITION. ALU-R (40_alu_r.md R100 to R108): `x[RD] <- x[RS1] op x[RS2]; pc <- pc + 4`. The meanings of the
names are the spec's from general knowledge (93_implementation_defined.md G2; notes/assumptions/25). -/

namespace Sys2Proof.Machine

/-- What running an instruction answers. -/
abbrev Result := Host.Outcome State Fault Refusal

/-- `x[RD] <- v; pc <- pc + 4`, the end of every ALU and compare instruction (00_scope.md R10). -/
def writeBack (rd : Reg) (v : Word) (s : State) : Result := .next (s.writeReg rd v).advance

/-! ### The eight operations, shared with ALU-I (41_alu_i.md R120) -/

/-- ADD's operation (R101). -/
def opAdd (a b : Word) : Word := a + b

/-- SUB's operation (R102). -/
def opSub (a b : Word) : Word := a - b

/-- AND's operation (R103). -/
def opAnd (a b : Word) : Word := a &&& b

/-- OR's operation (R104). -/
def opOr (a b : Word) : Word := a ||| b

/-- XOR's operation (R105). -/
def opXor (a b : Word) : Word := a ^^^ b

/-- NAND's operation (R106). -/
def opNand (a b : Word) : Word := ~~~(a &&& b)

/-- NOR's operation (R107). -/
def opNor (a b : Word) : Word := ~~~(a ||| b)

/-- XNOR's operation (R108). -/
def opXnor (a b : Word) : Word := ~~~(a ^^^ b)

/-- The class (R100): both sources are read before the write. -/
def aluR (op : Word → Word → Word) (rs2 rs1 rd : Reg) (s : State) : Result :=
  writeBack rd (op (s.readReg rs1) (s.readReg rs2)) s

/-! ### The instructions -/

/-- ADD: `x[RD] <- x[RS1] + x[RS2]` (R101). -/
def execAdd (rs2 rs1 rd : Reg) (s : State) : Result := aluR opAdd rs2 rs1 rd s

/-- SUB: `x[RD] <- x[RS1] - x[RS2]`, RS1 the minuend (R102). -/
def execSub (rs2 rs1 rd : Reg) (s : State) : Result := aluR opSub rs2 rs1 rd s

/-- AND: `x[RD] <- x[RS1] & x[RS2]` (R103). -/
def execAnd (rs2 rs1 rd : Reg) (s : State) : Result := aluR opAnd rs2 rs1 rd s

/-- OR: `x[RD] <- x[RS1] | x[RS2]` (R104). -/
def execOr (rs2 rs1 rd : Reg) (s : State) : Result := aluR opOr rs2 rs1 rd s

/-- XOR: `x[RD] <- x[RS1] ^ x[RS2]` (R105). -/
def execXor (rs2 rs1 rd : Reg) (s : State) : Result := aluR opXor rs2 rs1 rd s

/-- NAND: `x[RD] <- ~(x[RS1] & x[RS2])` (R106). -/
def execNand (rs2 rs1 rd : Reg) (s : State) : Result := aluR opNand rs2 rs1 rd s

/-- NOR: `x[RD] <- ~(x[RS1] | x[RS2])` (R107). -/
def execNor (rs2 rs1 rd : Reg) (s : State) : Result := aluR opNor rs2 rs1 rd s

/-- XNOR: `x[RD] <- ~(x[RS1] ^ x[RS2])` (R108). -/
def execXnor (rs2 rs1 rd : Reg) (s : State) : Result := aluR opXnor rs2 rs1 rd s

end Sys2Proof.Machine
end

