-- ==== Sys2Proof/Machine/AluI.lean ====
section
/-! DEFINITION. ALU-I (41_alu_i.md R120 to R129): `x[RD] <- x[RS1] op sext_32(imm); pc <- pc + 4`, sign-extended for
the logical operations too; and MVHI. -/

namespace Sys2Proof.Machine

/-- The class, MVHI apart (R120). -/
def aluI (op : Word → Word → Word) (imm : Imm) (rs1 rd : Reg) (s : State) : Result :=
  writeBack rd (op (s.readReg rs1) (sext32 imm)) s

/-- ADDI: `x[RD] <- x[RS1] + sext_32(imm)` (R121). -/
def execAddi (imm : Imm) (rs1 rd : Reg) (s : State) : Result := aluI opAdd imm rs1 rd s

/-- SUBI: `x[RD] <- x[RS1] - sext_32(imm)` (R122). -/
def execSubi (imm : Imm) (rs1 rd : Reg) (s : State) : Result := aluI opSub imm rs1 rd s

/-- ANDI: `x[RD] <- x[RS1] & sext_32(imm)` (R123). -/
def execAndi (imm : Imm) (rs1 rd : Reg) (s : State) : Result := aluI opAnd imm rs1 rd s

/-- ORI: `x[RD] <- x[RS1] | sext_32(imm)` (R124). -/
def execOri (imm : Imm) (rs1 rd : Reg) (s : State) : Result := aluI opOr imm rs1 rd s

/-- XORI: `x[RD] <- x[RS1] ^ sext_32(imm)` (R125). -/
def execXori (imm : Imm) (rs1 rd : Reg) (s : State) : Result := aluI opXor imm rs1 rd s

/-- NANDI: `x[RD] <- ~(x[RS1] & sext_32(imm))` (R126). -/
def execNandi (imm : Imm) (rs1 rd : Reg) (s : State) : Result := aluI opNand imm rs1 rd s

/-- NORI: `x[RD] <- ~(x[RS1] | sext_32(imm))` (R127). -/
def execNori (imm : Imm) (rs1 rd : Reg) (s : State) : Result := aluI opNor imm rs1 rd s

/-- XNORI: `x[RD] <- ~(x[RS1] ^ sext_32(imm))` (R128). -/
def execXnori (imm : Imm) (rs1 rd : Reg) (s : State) : Result := aluI opXnor imm rs1 rd s

/-- MVHI: `x[RD] <- imm : 0x0000` (R129; notes/assumptions/7). -/
def execMvhi (imm : Imm) (rd : Reg) (s : State) : Result := writeBack rd (mvhiValue imm (s.readReg rd)) s

end Sys2Proof.Machine
end

