-- ==== Sys2Proof/Machine/Branch.lean ====
section
/-! DEFINITION. BRANCH (45_branch.md R190 to R207): taken or not, nothing but `pc` is written. -/

namespace Sys2Proof.Machine

/-- `if cond then pc <- pc + 4 + (sext_32(imm) << 2) else pc <- pc + 4` (R190). -/
def branchIf (taken : Bool) (imm : Imm) (s : State) : Result :=
  .next (if taken then s.jump (branchTarget s.pc imm) else s.advance)

/-- The two-register forms: RS1 is the left side (R190). -/
def branch (cond : Word → Word → Bool) (imm : Imm) (rs2 rs1 : Reg) (s : State) : Result :=
  branchIf (cond (s.readReg rs1) (s.readReg rs2)) imm s

/-- The compare-with-zero forms: the right side is the constant zero, not R0 (R191; 92_eei_decisions.md D12;
notes/assumptions/9). -/
def branchZero (cond : Word → Word → Bool) (imm : Imm) (rs1 : Reg) (s : State) : Result :=
  branchIf (cond (s.readReg rs1) 0#32) imm s

/-- BF: never taken, no operand read (R192). -/
def execBf (imm : Imm) (rs2 rs1 : Reg) (s : State) : Result := branch condF imm rs2 rs1 s

/-- BEQ: taken when `x[RS1] == x[RS2]` (R193). -/
def execBeq (imm : Imm) (rs2 rs1 : Reg) (s : State) : Result := branch condEq imm rs2 rs1 s

/-- BLT: taken when `s(x[RS1]) < s(x[RS2])` (R194). -/
def execBlt (imm : Imm) (rs2 rs1 : Reg) (s : State) : Result := branch condLt imm rs2 rs1 s

/-- BLTE: taken when `s(x[RS1]) <= s(x[RS2])` (R195). -/
def execBlte (imm : Imm) (rs2 rs1 : Reg) (s : State) : Result := branch condLte imm rs2 rs1 s

/-- BEQZ: taken when `x[RS1] == 0` (R196). -/
def execBeqz (imm : Imm) (rs1 : Reg) (s : State) : Result := branchZero condEq imm rs1 s

/-- BLTZ: taken when `s(x[RS1]) < 0` (R197). -/
def execBltz (imm : Imm) (rs1 : Reg) (s : State) : Result := branchZero condLt imm rs1 s

/-- BLTEZ: taken when `s(x[RS1]) <= 0` (R198). -/
def execBltez (imm : Imm) (rs1 : Reg) (s : State) : Result := branchZero condLte imm rs1 s

/-- BT: always taken, no operand read (R199). -/
def execBt (imm : Imm) (rs2 rs1 : Reg) (s : State) : Result := branch condT imm rs2 rs1 s

/-- BNE: taken when `x[RS1] != x[RS2]` (R200). -/
def execBne (imm : Imm) (rs2 rs1 : Reg) (s : State) : Result := branch condNe imm rs2 rs1 s

/-- BGTE: taken when `s(x[RS1]) >= s(x[RS2])` (R201). -/
def execBgte (imm : Imm) (rs2 rs1 : Reg) (s : State) : Result := branch condGte imm rs2 rs1 s

/-- BGT: taken when `s(x[RS1]) > s(x[RS2])` (R202). -/
def execBgt (imm : Imm) (rs2 rs1 : Reg) (s : State) : Result := branch condGt imm rs2 rs1 s

/-- BNEZ: taken when `x[RS1] != 0` (R203). -/
def execBnez (imm : Imm) (rs1 : Reg) (s : State) : Result := branchZero condNe imm rs1 s

/-- BGTEZ: taken when `s(x[RS1]) >= 0` (R204). -/
def execBgtez (imm : Imm) (rs1 : Reg) (s : State) : Result := branchZero condGte imm rs1 s

/-- BGTZ: taken when `s(x[RS1]) > 0` (R205). -/
def execBgtz (imm : Imm) (rs1 : Reg) (s : State) : Result := branchZero condGt imm rs1 s

end Sys2Proof.Machine
end

