-- ==== Sys2Proof/Machine/CmpI.lean ====
section
/-! DEFINITION. CMP-I (44_cmp_i.md R170 to R178): `x[RD] <- cond(x[RS1], sext_32(imm)) ? 1 : 0; pc <- pc + 4`. -/

namespace Sys2Proof.Machine

/-- The class (R170): the register is the left side. -/
def cmpI (cond : Word → Word → Bool) (imm : Imm) (rs1 rd : Reg) (s : State) : Result :=
  writeBack rd (boolWord (cond (s.readReg rs1) (sext32 imm))) s

/-- FI: RD gets `0, no operand read` (R171). -/
def execFi (imm : Imm) (rs1 rd : Reg) (s : State) : Result := cmpI condF imm rs1 rd s

/-- EQI: RD gets `x[RS1] == sext_32(imm)` (R172). -/
def execEqi (imm : Imm) (rs1 rd : Reg) (s : State) : Result := cmpI condEq imm rs1 rd s

/-- LTI: RD gets `s(x[RS1]) < s(sext_32(imm))` (R173). -/
def execLti (imm : Imm) (rs1 rd : Reg) (s : State) : Result := cmpI condLt imm rs1 rd s

/-- LTEI: RD gets `s(x[RS1]) <= s(sext_32(imm))` (R174). -/
def execLtei (imm : Imm) (rs1 rd : Reg) (s : State) : Result := cmpI condLte imm rs1 rd s

/-- TI: RD gets `1, no operand read` (R175). -/
def execTi (imm : Imm) (rs1 rd : Reg) (s : State) : Result := cmpI condT imm rs1 rd s

/-- NEI: RD gets `x[RS1] != sext_32(imm)` (R176). -/
def execNei (imm : Imm) (rs1 rd : Reg) (s : State) : Result := cmpI condNe imm rs1 rd s

/-- GTEI: RD gets `s(x[RS1]) >= s(sext_32(imm))` (R177). -/
def execGtei (imm : Imm) (rs1 rd : Reg) (s : State) : Result := cmpI condGte imm rs1 rd s

/-- GTI: RD gets `s(x[RS1]) > s(sext_32(imm))` (R178). -/
def execGti (imm : Imm) (rs1 rd : Reg) (s : State) : Result := cmpI condGt imm rs1 rd s

end Sys2Proof.Machine
end

