-- ==== Sys2Proof/Machine/CmpR.lean ====
section
/-! DEFINITION. CMP-R (43_cmp_r.md R150 to R159): `x[RD] <- cond(x[RS1], x[RS2]) ? 1 : 0; pc <- pc + 4`. -/

namespace Sys2Proof.Machine

/-- The class (R150): RS1 is the left side. -/
def cmpR (cond : Word → Word → Bool) (rs2 rs1 rd : Reg) (s : State) : Result :=
  writeBack rd (boolWord (cond (s.readReg rs1) (s.readReg rs2))) s

/-- F: RD gets `0, no operand read` (R151). -/
def execF (rs2 rs1 rd : Reg) (s : State) : Result := cmpR condF rs2 rs1 rd s

/-- EQ: RD gets `x[RS1] == x[RS2]` (R152). -/
def execEq (rs2 rs1 rd : Reg) (s : State) : Result := cmpR condEq rs2 rs1 rd s

/-- LT: RD gets `s(x[RS1]) < s(x[RS2])` (R153). -/
def execLt (rs2 rs1 rd : Reg) (s : State) : Result := cmpR condLt rs2 rs1 rd s

/-- LTE: RD gets `s(x[RS1]) <= s(x[RS2])` (R154). -/
def execLte (rs2 rs1 rd : Reg) (s : State) : Result := cmpR condLte rs2 rs1 rd s

/-- T: RD gets `1, no operand read` (R155). -/
def execT (rs2 rs1 rd : Reg) (s : State) : Result := cmpR condT rs2 rs1 rd s

/-- NE: RD gets `x[RS1] != x[RS2]` (R156). -/
def execNe (rs2 rs1 rd : Reg) (s : State) : Result := cmpR condNe rs2 rs1 rd s

/-- GTE: RD gets `s(x[RS1]) >= s(x[RS2])` (R157). -/
def execGte (rs2 rs1 rd : Reg) (s : State) : Result := cmpR condGte rs2 rs1 rd s

/-- GT: RD gets `s(x[RS1]) > s(x[RS2])` (R158). -/
def execGt (rs2 rs1 rd : Reg) (s : State) : Result := cmpR condGt rs2 rs1 rd s

end Sys2Proof.Machine
end

