-- ==== Sys2Proof/Machine/Jal.lean ====
section
/-! DEFINITION. JAL (46_jal.md R220). -/

namespace Sys2Proof.Machine

/-- JAL: `x[RD] <- pc + 4; pc <- x[RS1] + (sext_32(imm) << 2)`, the target from the old `x[RS1]` also when RD = RS1
(R220; 92_eei_decisions.md D14; notes/assumptions/10). The target is not checked here: a bad one faults at the next
fetch. -/
def execJal (imm : Imm) (rs1 rd : Reg) (s : State) : Result :=
  .next ((s.writeReg rd s.nextPc).jump (jalTarget s rs1 imm))

end Sys2Proof.Machine
end

