-- ==== Sys2Proof/Machine/LoadStore.lean ====
section
/-! DEFINITION. LW and SW (42_load_store.md R140 to R142). -/

namespace Sys2Proof.Machine

/-- LW: `x[RD] <- MemRead(x[RS1] + sext_32(imm), 4); pc <- pc + 4` (R141). A fault writes nothing. -/
def execLw (imm : Imm) (rs1 rd : Reg) (s : State) : Result :=
  match memRead (effectiveAddress s rs1 imm) s with
  | .error f => .fault f
  | .ok (v, s') => writeBack rd v s'

/-- SW: `MemWrite(x[RS1] + sext_32(imm), 4, x[RS2]); pc <- pc + 4` (R142). A fault writes nothing. -/
def execSw (imm : Imm) (rs1 rs2 : Reg) (s : State) : Result :=
  match memWrite (effectiveAddress s rs1 imm) (s.readReg rs2) s with
  | .error f => .fault f
  | .ok s' => .next s'.advance

end Sys2Proof.Machine
end

