-- ==== Sys2Proof/Machine/Dispatch.lean ====
section
/-! DEFINITION. One arm per instruction, each one call of its meaning. -/

namespace Sys2Proof.Machine

def exec (i : Instr) (s : State) : Host.Outcome State Fault Refusal :=
  match i with
  | .add rs2 rs1 rd => Sys2Proof.Machine.execAdd rs2 rs1 rd s
  | .sub rs2 rs1 rd => Sys2Proof.Machine.execSub rs2 rs1 rd s
  | .and rs2 rs1 rd => Sys2Proof.Machine.execAnd rs2 rs1 rd s
  | .or rs2 rs1 rd => Sys2Proof.Machine.execOr rs2 rs1 rd s
  | .xor rs2 rs1 rd => Sys2Proof.Machine.execXor rs2 rs1 rd s
  | .nand rs2 rs1 rd => Sys2Proof.Machine.execNand rs2 rs1 rd s
  | .nor rs2 rs1 rd => Sys2Proof.Machine.execNor rs2 rs1 rd s
  | .xnor rs2 rs1 rd => Sys2Proof.Machine.execXnor rs2 rs1 rd s
  | .addi imm rs1 rd => Sys2Proof.Machine.execAddi imm rs1 rd s
  | .subi imm rs1 rd => Sys2Proof.Machine.execSubi imm rs1 rd s
  | .andi imm rs1 rd => Sys2Proof.Machine.execAndi imm rs1 rd s
  | .ori imm rs1 rd => Sys2Proof.Machine.execOri imm rs1 rd s
  | .xori imm rs1 rd => Sys2Proof.Machine.execXori imm rs1 rd s
  | .nandi imm rs1 rd => Sys2Proof.Machine.execNandi imm rs1 rd s
  | .nori imm rs1 rd => Sys2Proof.Machine.execNori imm rs1 rd s
  | .xnori imm rs1 rd => Sys2Proof.Machine.execXnori imm rs1 rd s
  | .mvhi imm rd => Sys2Proof.Machine.execMvhi imm rd s
  | .lw imm rs1 rd => Sys2Proof.Machine.execLw imm rs1 rd s
  | .sw imm rs1 rs2 => Sys2Proof.Machine.execSw imm rs1 rs2 s
  | .f rs2 rs1 rd => Sys2Proof.Machine.execF rs2 rs1 rd s
  | .eq rs2 rs1 rd => Sys2Proof.Machine.execEq rs2 rs1 rd s
  | .lt rs2 rs1 rd => Sys2Proof.Machine.execLt rs2 rs1 rd s
  | .lte rs2 rs1 rd => Sys2Proof.Machine.execLte rs2 rs1 rd s
  | .t rs2 rs1 rd => Sys2Proof.Machine.execT rs2 rs1 rd s
  | .ne rs2 rs1 rd => Sys2Proof.Machine.execNe rs2 rs1 rd s
  | .gte rs2 rs1 rd => Sys2Proof.Machine.execGte rs2 rs1 rd s
  | .gt rs2 rs1 rd => Sys2Proof.Machine.execGt rs2 rs1 rd s
  | .fi imm rs1 rd => Sys2Proof.Machine.execFi imm rs1 rd s
  | .eqi imm rs1 rd => Sys2Proof.Machine.execEqi imm rs1 rd s
  | .lti imm rs1 rd => Sys2Proof.Machine.execLti imm rs1 rd s
  | .ltei imm rs1 rd => Sys2Proof.Machine.execLtei imm rs1 rd s
  | .ti imm rs1 rd => Sys2Proof.Machine.execTi imm rs1 rd s
  | .nei imm rs1 rd => Sys2Proof.Machine.execNei imm rs1 rd s
  | .gtei imm rs1 rd => Sys2Proof.Machine.execGtei imm rs1 rd s
  | .gti imm rs1 rd => Sys2Proof.Machine.execGti imm rs1 rd s
  | .bf imm rs2 rs1 => Sys2Proof.Machine.execBf imm rs2 rs1 s
  | .beq imm rs2 rs1 => Sys2Proof.Machine.execBeq imm rs2 rs1 s
  | .blt imm rs2 rs1 => Sys2Proof.Machine.execBlt imm rs2 rs1 s
  | .blte imm rs2 rs1 => Sys2Proof.Machine.execBlte imm rs2 rs1 s
  | .beqz imm rs1 => Sys2Proof.Machine.execBeqz imm rs1 s
  | .bltz imm rs1 => Sys2Proof.Machine.execBltz imm rs1 s
  | .bltez imm rs1 => Sys2Proof.Machine.execBltez imm rs1 s
  | .bt imm rs2 rs1 => Sys2Proof.Machine.execBt imm rs2 rs1 s
  | .bne imm rs2 rs1 => Sys2Proof.Machine.execBne imm rs2 rs1 s
  | .bgte imm rs2 rs1 => Sys2Proof.Machine.execBgte imm rs2 rs1 s
  | .bgt imm rs2 rs1 => Sys2Proof.Machine.execBgt imm rs2 rs1 s
  | .bnez imm rs1 => Sys2Proof.Machine.execBnez imm rs1 s
  | .bgtez imm rs1 => Sys2Proof.Machine.execBgtez imm rs1 s
  | .bgtz imm rs1 => Sys2Proof.Machine.execBgtz imm rs1 s
  | .jal imm rs1 rd => Sys2Proof.Machine.execJal imm rs1 rd s

end Sys2Proof.Machine
end

