-- ==== Sys2Proof/WellFormed.lean ====
section
/-! DEFINITION. Which 32-bit words are instructions: the opcode table of 30_encoding.md R82 as mask and match rows,
written apart from the decoder, which follows R77's maps. An `Instr` itself has no ill-formed value: every register
field is one of sixteen and every immediate has 16 bits (R76), so the check is on words (R83, R84). -/

namespace Sys2Proof

/-- One row of R82: a word `w` is this instruction exactly when `w &&& mask = value`. -/
structure Row where
  mnemonic : String
  value : Word
  mask : Word
  deriving DecidableEq, Repr

/-- A word is an instance of a row (R82, last sentence). -/
def Row.accepts (r : Row) (w : Word) : Bool := w &&& r.mask == r.value

/-- R82, the rows of ALU-R. -/
def rowsAluR : List Row :=
  [⟨"ADD", 0x3F000000#32, 0xFFFFF000#32⟩,
   ⟨"SUB", 0x2F000000#32, 0xFFFFF000#32⟩,
   ⟨"AND", 0x7F000000#32, 0xFFFFF000#32⟩,
   ⟨"OR", 0x6F000000#32, 0xFFFFF000#32⟩,
   ⟨"XOR", 0x5F000000#32, 0xFFFFF000#32⟩,
   ⟨"NAND", 0xBF000000#32, 0xFFFFF000#32⟩,
   ⟨"NOR", 0xAF000000#32, 0xFFFFF000#32⟩,
   ⟨"XNOR", 0x9F000000#32, 0xFFFFF000#32⟩]

/-- R82, the rows of ALU-I. -/
def rowsAluI : List Row :=
  [⟨"ADDI", 0x3B000000#32, 0xFF000000#32⟩,
   ⟨"SUBI", 0x2B000000#32, 0xFF000000#32⟩,
   ⟨"ANDI", 0x7B000000#32, 0xFF000000#32⟩,
   ⟨"ORI", 0x6B000000#32, 0xFF000000#32⟩,
   ⟨"XORI", 0x5B000000#32, 0xFF000000#32⟩,
   ⟨"NANDI", 0xBB000000#32, 0xFF000000#32⟩,
   ⟨"NORI", 0xAB000000#32, 0xFF000000#32⟩,
   ⟨"XNORI", 0x9B000000#32, 0xFF000000#32⟩,
   ⟨"MVHI", 0xFB000000#32, 0xFF0000F0#32⟩]

/-- R82, the rows of Load/Store. -/
def rowsLoadStore : List Row :=
  [⟨"LW", 0x09000000#32, 0xFF000000#32⟩,
   ⟨"SW", 0x08000000#32, 0xFF000000#32⟩]

/-- R82, the rows of CMP-R. -/
def rowsCmpR : List Row :=
  [⟨"F", 0x3E000000#32, 0xFFFFF000#32⟩,
   ⟨"EQ", 0xCE000000#32, 0xFFFFF000#32⟩,
   ⟨"LT", 0xDE000000#32, 0xFFFFF000#32⟩,
   ⟨"LTE", 0x2E000000#32, 0xFFFFF000#32⟩,
   ⟨"T", 0xFE000000#32, 0xFFFFF000#32⟩,
   ⟨"NE", 0x0E000000#32, 0xFFFFF000#32⟩,
   ⟨"GTE", 0x1E000000#32, 0xFFFFF000#32⟩,
   ⟨"GT", 0xEE000000#32, 0xFFFFF000#32⟩]

/-- R82, the rows of CMP-I. -/
def rowsCmpI : List Row :=
  [⟨"FI", 0x3A000000#32, 0xFF000000#32⟩,
   ⟨"EQI", 0xCA000000#32, 0xFF000000#32⟩,
   ⟨"LTI", 0xDA000000#32, 0xFF000000#32⟩,
   ⟨"LTEI", 0x2A000000#32, 0xFF000000#32⟩,
   ⟨"TI", 0xFA000000#32, 0xFF000000#32⟩,
   ⟨"NEI", 0x0A000000#32, 0xFF000000#32⟩,
   ⟨"GTEI", 0x1A000000#32, 0xFF000000#32⟩,
   ⟨"GTI", 0xEA000000#32, 0xFF000000#32⟩]

/-- R82, the rows of BRANCH. -/
def rowsBranch : List Row :=
  [⟨"BF", 0x30000000#32, 0xFF000000#32⟩,
   ⟨"BEQ", 0xC0000000#32, 0xFF000000#32⟩,
   ⟨"BLT", 0xD0000000#32, 0xFF000000#32⟩,
   ⟨"BLTE", 0x20000000#32, 0xFF000000#32⟩,
   ⟨"BEQZ", 0x80000000#32, 0xFF0000F0#32⟩,
   ⟨"BLTZ", 0x90000000#32, 0xFF0000F0#32⟩,
   ⟨"BLTEZ", 0x60000000#32, 0xFF0000F0#32⟩,
   ⟨"BT", 0xF0000000#32, 0xFF000000#32⟩,
   ⟨"BNE", 0x00000000#32, 0xFF000000#32⟩,
   ⟨"BGTE", 0x10000000#32, 0xFF000000#32⟩,
   ⟨"BGT", 0xE0000000#32, 0xFF000000#32⟩,
   ⟨"BNEZ", 0x40000000#32, 0xFF0000F0#32⟩,
   ⟨"BGTEZ", 0x50000000#32, 0xFF0000F0#32⟩,
   ⟨"BGTZ", 0xA0000000#32, 0xFF0000F0#32⟩]

/-- R82, the rows of JAL. -/
def rowsJal : List Row :=
  [⟨"JAL", 0x01000000#32, 0xFF000000#32⟩]

/-- The complete instruction list (R82). -/
def opcodeRows : List Row :=
  rowsAluR ++ rowsAluI ++ rowsLoadStore ++ rowsCmpR ++ rowsCmpI ++ rowsBranch ++ rowsJal

/-- A word that some row accepts; every other word is reserved (R83). -/
def wellFormedWord (w : Word) : Bool := opcodeRows.any (Row.accepts · w)

end Sys2Proof
end

