-- ==== Sys2Proof/Decode.lean ====
section
/-! DEFINITION. The decoder (30_encoding.md R70 to R84), total on words and on bytes, refusing by name; then the
encoder. -/

namespace Sys2Proof

/-- Why a word is no instruction (30_encoding.md R83). Safe: the machine turns each into the fault
`reservedEncoding` (92_eei_decisions.md D8; notes/assumptions/14). -/
inductive DecodeReject where
  /-- R83 (a): the opcode's cell in R80 is empty. -/
  | emptyOpcode (opcode : BitVec 4)
  /-- R83 (b) to (f): the function's cell in the class's table (R81) is empty, or `fn` is not 0000 in LW, SW, JAL. -/
  | emptyFunction (opcode fn : BitVec 4)
  /-- R83 (g), R84: a must-be-zero bit is set. -/
  | mustBeZero (opcode fn : BitVec 4)
  /-- Fewer than the four bytes of an instruction (R70); never met by the machine, which fetches whole words. -/
  | truncated
  deriving DecidableEq, Repr

/-! ### Fields (R70 to R74) -/

/-- `fn = iword[31:28]` (R70). -/
def fnOf (w : Word) : BitVec 4 := w.extractLsb' 28 4

/-- `opcode = iword[27:24]` (R70). -/
def opcodeOf (w : Word) : BitVec 4 := w.extractLsb' 24 4

/-- `imm = iword[23:8]` (R72, R73, R76). -/
def immOf (w : Word) : Imm := w.extractLsb' 8 16

/-- The must-be-zero bits 23:12 of format R (R71). -/
def zeroOf (w : Word) : BitVec 12 := w.extractLsb' 12 12

/-- The register field at bits 11:8: RS2 of format R (R71). -/
def regHigh (w : Word) : Reg := (w.extractLsb' 8 4).toFin

/-- The register field at bits 7:4: RS1 of formats R and I, RS2 of format S (R71 to R73). -/
def regMid (w : Word) : Reg := (w.extractLsb' 4 4).toFin

/-- The register field at bits 3:0: RD of formats R and I, RS1 of format S (R71 to R73). -/
def regLow (w : Word) : Reg := (w.extractLsb' 0 4).toFin

/-! ### Function tables (R81) -/

/-- "ALU-R/ALU-I function mapping", the names before the slash (opcode 1111). -/
def aluRTable (fn : BitVec 4) : Option (Reg → Reg → Reg → Instr) :=
  match fn with
  | 0b0011#4 => some .add
  | 0b0010#4 => some .sub
  | 0b0111#4 => some .and
  | 0b0110#4 => some .or
  | 0b0101#4 => some .xor
  | 0b1011#4 => some .nand
  | 0b1010#4 => some .nor
  | 0b1001#4 => some .xnor
  | _ => none

/-- "ALU-R/ALU-I function mapping", the names after the slash (opcode 1011), MVHI apart. -/
def aluITable (fn : BitVec 4) : Option (Imm → Reg → Reg → Instr) :=
  match fn with
  | 0b0011#4 => some .addi
  | 0b0010#4 => some .subi
  | 0b0111#4 => some .andi
  | 0b0110#4 => some .ori
  | 0b0101#4 => some .xori
  | 0b1011#4 => some .nandi
  | 0b1010#4 => some .nori
  | 0b1001#4 => some .xnori
  | _ => none

/-- "CMP-R/CMP-I function mapping", the names before the slash (opcode 1110). -/
def cmpRTable (fn : BitVec 4) : Option (Reg → Reg → Reg → Instr) :=
  match fn with
  | 0b0011#4 => some .f
  | 0b1100#4 => some .eq
  | 0b1101#4 => some .lt
  | 0b0010#4 => some .lte
  | 0b1111#4 => some .t
  | 0b0000#4 => some .ne
  | 0b0001#4 => some .gte
  | 0b1110#4 => some .gt
  | _ => none

/-- "CMP-R/CMP-I function mapping", the names after the slash (opcode 1010). -/
def cmpITable (fn : BitVec 4) : Option (Imm → Reg → Reg → Instr) :=
  match fn with
  | 0b0011#4 => some .fi
  | 0b1100#4 => some .eqi
  | 0b1101#4 => some .lti
  | 0b0010#4 => some .ltei
  | 0b1111#4 => some .ti
  | 0b0000#4 => some .nei
  | 0b0001#4 => some .gtei
  | 0b1110#4 => some .gti
  | _ => none

/-- "BRANCH function mapping", the two-register forms. -/
def branchTable (fn : BitVec 4) : Option (Imm → Reg → Reg → Instr) :=
  match fn with
  | 0b0011#4 => some .bf
  | 0b1100#4 => some .beq
  | 0b1101#4 => some .blt
  | 0b0010#4 => some .blte
  | 0b1111#4 => some .bt
  | 0b0000#4 => some .bne
  | 0b0001#4 => some .bgte
  | 0b1110#4 => some .bgt
  | _ => none

/-- "BRANCH function mapping", the compare-with-zero forms (sub-form S0, R74). -/
def branchZeroTable (fn : BitVec 4) : Option (Imm → Reg → Instr) :=
  match fn with
  | 0b1000#4 => some .beqz
  | 0b1001#4 => some .bltz
  | 0b0110#4 => some .bltez
  | 0b0100#4 => some .bnez
  | 0b0101#4 => some .bgtez
  | 0b1010#4 => some .bgtz
  | _ => none

/-! ### Decoding (R77) -/

/-- Format R: function, then the zero bits, then the registers (R71, R84). -/
def decodeR (cell : Option (Reg → Reg → Reg → Instr)) (w : Word) : Except DecodeReject Instr :=
  match cell with
  | none => .error (.emptyFunction (opcodeOf w) (fnOf w))
  | some mk =>
    if zeroOf w = 0#12 then .ok (mk (regHigh w) (regMid w) (regLow w))
    else .error (.mustBeZero (opcodeOf w) (fnOf w))

/-- An immediate and two registers, bits 7:4 first: format I gives RS1, RD and format S gives RS2, RS1
(R72, R73). -/
def decodeImm (cell : Option (Imm → Reg → Reg → Instr)) (w : Word) : Except DecodeReject Instr :=
  match cell with
  | none => .error (.emptyFunction (opcodeOf w) (fnOf w))
  | some mk => .ok (mk (immOf w) (regMid w) (regLow w))

/-- An immediate and one register, bits 7:4 zero: sub-forms I0 and S0 (R74, R84). -/
def decodeImmZero (cell : Option (Imm → Reg → Instr)) (w : Word) : Except DecodeReject Instr :=
  match cell with
  | none => .error (.emptyFunction (opcodeOf w) (fnOf w))
  | some mk =>
    if regMid w = 0 then .ok (mk (immOf w) (regLow w))
    else .error (.mustBeZero (opcodeOf w) (fnOf w))

/-- ALU-I: MVHI has sub-form I0, the others format I (R72, R74). -/
def decodeAluI (w : Word) : Except DecodeReject Instr :=
  if fnOf w = 0b1111#4 then decodeImmZero (some .mvhi) w else decodeImm (aluITable (fnOf w)) w

/-- BRANCH: the compare-with-zero forms have sub-form S0, the others format S (R73, R74). -/
def decodeBranch (w : Word) : Except DecodeReject Instr :=
  match branchZeroTable (fnOf w) with
  | some mk => decodeImmZero (some mk) w
  | none => decodeImm (branchTable (fnOf w)) w

/-- LW and JAL need `fn = 0000` (R77). -/
def onlyFnZero (mk : Imm → Reg → Reg → Instr) (w : Word) : Option (Imm → Reg → Reg → Instr) :=
  if fnOf w = 0b0000#4 then some mk else none

/-- "General opcode mapping" (R80) and the decoding of each class (R77). SW's format S gives RS2 in bits 7:4 and
RS1 in bits 3:0 (R73; 90_conflicts.md C3; notes/assumptions/11), and the constructor takes RS1 first. -/
def decode (w : Word) : Except DecodeReject Instr :=
  match opcodeOf w with
  | 0b0000#4 => decodeBranch w
  | 0b0001#4 => decodeImm (onlyFnZero .jal w) w
  | 0b1000#4 => decodeImm (onlyFnZero (fun imm rs2 rs1 => .sw imm rs1 rs2) w) w
  | 0b1001#4 => decodeImm (onlyFnZero .lw w) w
  | 0b1010#4 => decodeImm (cmpITable (fnOf w)) w
  | 0b1011#4 => decodeAluI w
  | 0b1110#4 => decodeR (cmpRTable (fnOf w)) w
  | 0b1111#4 => decodeR (aluRTable (fnOf w)) w
  | op => .error (.emptyOpcode op)

/-- The decoder on bytes as the model lays them (notes/assumptions/1): the instruction and the bytes after it. -/
def decodeBytes : List Byte → Except DecodeReject (Instr × List Byte)
  | b0 :: b1 :: b2 :: b3 :: rest =>
    match decode (wordOfBytes b0 b1 b2 b3) with
    | .ok i => .ok (i, rest)
    | .error r => .error r
  | _ => .error .truncated

/-- The 32-bit word the opcode table's numbering gives: the table's bits, every bit above `nbits` zero. -/
def tableWord (nbits w : Nat) : Word := BitVec.ofNat 32 (w % 2 ^ nbits)

/-- What the decoder reads from an instruction whose bits the opcode table numbers as `w` (one word, bit 0 its
least significant bit: R6). -/
def decodeTableWord (nbits w : Nat) : Option Instr :=
  match decodeBytes (bytesOfWord (tableWord nbits w)) with
  | .ok (i, _) => some i
  | .error _ => none

/-! ### Encoding -/

/-- Format R (R71). -/
def packR (fn opcode : BitVec 4) (rs2 rs1 rd : Reg) : Word :=
  fn ++ opcode ++ 0#12 ++ BitVec.ofFin (w := 4) rs2 ++ BitVec.ofFin (w := 4) rs1 ++ BitVec.ofFin (w := 4) rd

/-- An immediate over bits 7:4 and bits 3:0: format I with RS1, RD and format S with RS2, RS1 (R72, R73). -/
def packImm (fn opcode : BitVec 4) (imm : Imm) (mid low : Reg) : Word :=
  fn ++ opcode ++ imm ++ BitVec.ofFin (w := 4) mid ++ BitVec.ofFin (w := 4) low

/-- The word of an instruction, from the patterns of R82. -/
def encode : Instr → Word
  | .add rs2 rs1 rd => packR 0b0011#4 0b1111#4 rs2 rs1 rd
  | .sub rs2 rs1 rd => packR 0b0010#4 0b1111#4 rs2 rs1 rd
  | .and rs2 rs1 rd => packR 0b0111#4 0b1111#4 rs2 rs1 rd
  | .or rs2 rs1 rd => packR 0b0110#4 0b1111#4 rs2 rs1 rd
  | .xor rs2 rs1 rd => packR 0b0101#4 0b1111#4 rs2 rs1 rd
  | .nand rs2 rs1 rd => packR 0b1011#4 0b1111#4 rs2 rs1 rd
  | .nor rs2 rs1 rd => packR 0b1010#4 0b1111#4 rs2 rs1 rd
  | .xnor rs2 rs1 rd => packR 0b1001#4 0b1111#4 rs2 rs1 rd
  | .addi imm rs1 rd => packImm 0b0011#4 0b1011#4 imm rs1 rd
  | .subi imm rs1 rd => packImm 0b0010#4 0b1011#4 imm rs1 rd
  | .andi imm rs1 rd => packImm 0b0111#4 0b1011#4 imm rs1 rd
  | .ori imm rs1 rd => packImm 0b0110#4 0b1011#4 imm rs1 rd
  | .xori imm rs1 rd => packImm 0b0101#4 0b1011#4 imm rs1 rd
  | .nandi imm rs1 rd => packImm 0b1011#4 0b1011#4 imm rs1 rd
  | .nori imm rs1 rd => packImm 0b1010#4 0b1011#4 imm rs1 rd
  | .xnori imm rs1 rd => packImm 0b1001#4 0b1011#4 imm rs1 rd
  | .mvhi imm rd => packImm 0b1111#4 0b1011#4 imm 0 rd
  | .lw imm rs1 rd => packImm 0b0000#4 0b1001#4 imm rs1 rd
  | .sw imm rs1 rs2 => packImm 0b0000#4 0b1000#4 imm rs2 rs1
  | .f rs2 rs1 rd => packR 0b0011#4 0b1110#4 rs2 rs1 rd
  | .eq rs2 rs1 rd => packR 0b1100#4 0b1110#4 rs2 rs1 rd
  | .lt rs2 rs1 rd => packR 0b1101#4 0b1110#4 rs2 rs1 rd
  | .lte rs2 rs1 rd => packR 0b0010#4 0b1110#4 rs2 rs1 rd
  | .t rs2 rs1 rd => packR 0b1111#4 0b1110#4 rs2 rs1 rd
  | .ne rs2 rs1 rd => packR 0b0000#4 0b1110#4 rs2 rs1 rd
  | .gte rs2 rs1 rd => packR 0b0001#4 0b1110#4 rs2 rs1 rd
  | .gt rs2 rs1 rd => packR 0b1110#4 0b1110#4 rs2 rs1 rd
  | .fi imm rs1 rd => packImm 0b0011#4 0b1010#4 imm rs1 rd
  | .eqi imm rs1 rd => packImm 0b1100#4 0b1010#4 imm rs1 rd
  | .lti imm rs1 rd => packImm 0b1101#4 0b1010#4 imm rs1 rd
  | .ltei imm rs1 rd => packImm 0b0010#4 0b1010#4 imm rs1 rd
  | .ti imm rs1 rd => packImm 0b1111#4 0b1010#4 imm rs1 rd
  | .nei imm rs1 rd => packImm 0b0000#4 0b1010#4 imm rs1 rd
  | .gtei imm rs1 rd => packImm 0b0001#4 0b1010#4 imm rs1 rd
  | .gti imm rs1 rd => packImm 0b1110#4 0b1010#4 imm rs1 rd
  | .bf imm rs2 rs1 => packImm 0b0011#4 0b0000#4 imm rs2 rs1
  | .beq imm rs2 rs1 => packImm 0b1100#4 0b0000#4 imm rs2 rs1
  | .blt imm rs2 rs1 => packImm 0b1101#4 0b0000#4 imm rs2 rs1
  | .blte imm rs2 rs1 => packImm 0b0010#4 0b0000#4 imm rs2 rs1
  | .beqz imm rs1 => packImm 0b1000#4 0b0000#4 imm 0 rs1
  | .bltz imm rs1 => packImm 0b1001#4 0b0000#4 imm 0 rs1
  | .bltez imm rs1 => packImm 0b0110#4 0b0000#4 imm 0 rs1
  | .bt imm rs2 rs1 => packImm 0b1111#4 0b0000#4 imm rs2 rs1
  | .bne imm rs2 rs1 => packImm 0b0000#4 0b0000#4 imm rs2 rs1
  | .bgte imm rs2 rs1 => packImm 0b0001#4 0b0000#4 imm rs2 rs1
  | .bgt imm rs2 rs1 => packImm 0b1110#4 0b0000#4 imm rs2 rs1
  | .bnez imm rs1 => packImm 0b0100#4 0b0000#4 imm 0 rs1
  | .bgtez imm rs1 => packImm 0b0101#4 0b0000#4 imm 0 rs1
  | .bgtz imm rs1 => packImm 0b1010#4 0b0000#4 imm 0 rs1
  | .jal imm rs1 rd => packImm 0b0000#4 0b0001#4 imm rs1 rd

end Sys2Proof
end

