-- ==== Sys2Proof/Machine/Fetch.lean ====
section
/-! DEFINITION. Fetching and decoding the instruction at `pc` (20_memory.md R49; 00_scope.md R10; 60_exceptions.md
R273), and placing a word where the next fetch reads. -/

namespace Sys2Proof.Machine

/-- `Fetch(addr)` (R49). It changes no state. -/
def fetch (addr : Word) (s : State) : Except Fault Word :=
  if misaligned addr then .error (.misalignedFetch addr)
  else if !inRam addr then .error (.fetchOutsideRam addr)
  else if s.isDirty addr then .error (.fetchOfModifiedWord addr)
  else .ok (s.mem.readWord addr.toNat)

/-- The decoded instruction of a fetched word, a refused word being the fault `reservedEncoding`
(30_encoding.md R83). -/
def decodeFetched (s : State) (w : Word) : Except Fault Instr :=
  match decode w with
  | .ok i => .ok i
  | .error _ => .error (.reservedEncoding s.pc w)

/-- Actions (1) and (2) of a step (00_scope.md R10). -/
def fetchInstr (s : State) : Except Fault Instr :=
  match fetch s.pc s with
  | .error f => .error f
  | .ok w => decodeFetched s w

/-- A word put at `pc` as the loader puts it: the RAM word replaced and not marked as stored to. A `pc` from which
nothing can be fetched leaves the state as it is (notes/assumptions/16). -/
def placeAtPc (w : Word) (s : State) : State :=
  if misaligned s.pc || !inRam s.pc then s
  else { s with mem := s.mem.writeWord s.pc.toNat w, dirty := s.dirty.filter (· != wordIndex s.pc) }

end Sys2Proof.Machine
end

