-- ==== Sys2Proof/Machine/Step.lean ====
section
/-! DEFINITION. One step (00_scope.md R10). -/

namespace Sys2Proof.Machine

/-- Fetch, decode, run: one whole instruction. `exec` moves `pc` itself. -/
def step (s : State) : Host.Outcome State Fault Refusal :=
  match fetchInstr s with
  | .error f => .fault f
  | .ok i => exec i s

/-- `s` with the instruction word that the opcode table numbers as `w` placed at `pc`, where `step` fetches next. -/
def State.withFetchWord (s : State) (nbits w : Nat) : State := placeAtPc (tableWord nbits w) s

end Sys2Proof.Machine
end

