-- ==== Sys2Proof/Machine/Pseudo.lean ====
section
/-! DEFINITION. The seven pseudo-instructions and their expansions (47_pseudo_and_assembler.md R230 to R238). They are
the assembler's, not the machine's: each is one or two words of real instructions. -/

namespace Sys2Proof.Machine

/-- Operands in the order of each fmt (R240). -/
inductive Pseudo where
  | b (imm : Imm)
  | not (rs rd : Reg)
  | ble (imm : Imm) (rs2 rs1 : Reg)
  | bge (imm : Imm) (rs2 rs1 : Reg)
  | call (imm : Imm) (rs1 : Reg)
  | ret
  | jmp (imm : Imm) (rs1 : Reg)
  deriving DecidableEq, Repr

/-- R6, the register BLE and BGE overwrite and B reads (R231, R233, R234, R238). -/
def regS0 : Reg := 6

/-- R9, the link register RET and JMP discard into (R236, R237; notes/assumptions/20). -/
def regAssembler : Reg := 9

/-- RA, R15 (10_state.md R21). -/
def regRa : Reg := 15

/-- `B imm` is `BEQ imm,R6,R6` (R231). -/
def expandB (imm : Imm) : List Instr := [.beq imm regS0 regS0]

/-- `NOT RS,RD` is `NAND RS,RS,RD` (R232). -/
def expandNot (rs rd : Reg) : List Instr := [.nand rs rs rd]

/-- `BLE imm,RS2,RS1` is `LTE RS2,RS1,R6` then `BNEZ imm,R6` (R233). -/
def expandBle (imm : Imm) (rs2 rs1 : Reg) : List Instr := [.lte rs2 rs1 regS0, .bnez imm regS0]

/-- `BGE imm,RS2,RS1` is `GTE RS2,RS1,R6` then `BNEZ imm,R6` (R234). -/
def expandBge (imm : Imm) (rs2 rs1 : Reg) : List Instr := [.gte rs2 rs1 regS0, .bnez imm regS0]

/-- `CALL imm(RS1)` is `JAL imm(RS1),RA` (R235). -/
def expandCall (imm : Imm) (rs1 : Reg) : List Instr := [.jal imm rs1 regRa]

/-- `RET` is `JAL 0(RA),R9`, the spec's own supply (R236; 92_eei_decisions.md D26; notes/assumptions/20). -/
def expandRet : List Instr := [.jal 0 regRa regAssembler]

/-- `JMP imm(RS1)` is `JAL imm(RS1),R9`, the spec's own supply (R237; D26; notes/assumptions/20). -/
def expandJmp (imm : Imm) (rs1 : Reg) : List Instr := [.jal imm rs1 regAssembler]

/-- The real instructions of a pseudo-instruction (R230). -/
def Pseudo.expand : Pseudo → List Instr
  | .b imm => expandB imm
  | .not rs rd => expandNot rs rd
  | .ble imm rs2 rs1 => expandBle imm rs2 rs1
  | .bge imm rs2 rs1 => expandBge imm rs2 rs1
  | .call imm rs1 => expandCall imm rs1
  | .ret => expandRet
  | .jmp imm rs1 => expandJmp imm rs1

end Sys2Proof.Machine
end

