-- ==== Sys2Proof/Machine/Assembler.lean ====
section
/-! DEFINITION. The assembler (47_pseudo_and_assembler.md R240 to R250), from lines already cut into tokens to the
2048-word image; the characters between tokens are not in the source (R251; notes/assumptions/19). It runs outside the
machine. -/

namespace Sys2Proof.Machine

/-! ### Source lines -/

/-- One operand as written: a text, or a text followed by a register in parentheses (R240). -/
inductive Operand where
  | plain (text : String)
  | indexed (imm base : String)
  deriving DecidableEq, Repr

/-- One statement: a label definition (R242), an instruction or pseudo-instruction, or a directive (R247 to R249). -/
inductive Line where
  | label (name : String)
  | op (mnemonic : String) (operands : List Operand)
  | orig (number : String)
  | word (value : String)
  | nameDef (name number : String)
  deriving DecidableEq, Repr

/-- Why a program is refused. Where no rule is named the refusal is the model's, since the spec gives no result; refusing
is safe (notes/assumptions/19). -/
inductive AsmError where
  /-- Not a number of R243. -/
  | notANumber (text : String)
  /-- Not a register name of 10_state.md R21 in one of its two spellings (R241). -/
  | notARegister (text : String)
  /-- Not a mnemonic in one of its two spellings (R241). -/
  | unknownMnemonic (text : String)
  /-- Operands not of the mnemonic's fmt (R240). -/
  | wrongOperands (mnemonic : String)
  /-- A number outside the accepted range (R246; 92_eei_decisions.md D27). -/
  | outOfRange (value : Int)
  /-- A branch to a label that no field reaches (R243; 92_eei_decisions.md D24). -/
  | unreachable (target : Int)
  /-- A label that nothing defines. -/
  | undefinedLabel (name : String)
  /-- A label spelled like a reserved word (R241; 93_implementation_defined.md section 1). -/
  | reservedLabel (name : String)
  /-- A label defined twice. -/
  | duplicateLabel (name : String)
  /-- A statement that needs the current address before the first `.ORIG` (R247). -/
  | noOrigin
  /-- A word placed at an address that is no RAM word (R247). -/
  | badAddress (addr : Int)
  /-- A word placed where one already stands (R247). -/
  | occupied (addr : Int)
  deriving DecidableEq, Repr

/-! ### Names -/

/-- Register names in upper and lower case (10_state.md R21; R241). -/
def registerNames : List (String × String × Reg) :=
  [("R0", "r0", 0), ("R1", "r1", 1), ("R2", "r2", 2), ("R3", "r3", 3), ("R4", "r4", 4),
   ("R5", "r5", 5), ("R6", "r6", 6), ("R7", "r7", 7), ("R8", "r8", 8), ("R9", "r9", 9),
   ("R10", "r10", 10), ("R11", "r11", 11), ("R12", "r12", 12), ("R13", "r13", 13), ("R14", "r14", 14),
   ("R15", "r15", 15), ("A0", "a0", 0), ("A1", "a1", 1), ("A2", "a2", 2), ("A3", "a3", 3),
   ("RV", "rv", 3), ("T0", "t0", 4), ("T1", "t1", 5), ("S0", "s0", 6), ("S1", "s1", 7),
   ("S2", "s2", 8), ("GP", "gp", 12), ("FP", "fp", 13), ("SP", "sp", 14), ("RA", "ra", 15)]

/-- The register a name stands for, in either case; mixed case is not stated and refused (R241). -/
def registerOf (name : String) : Except AsmError Reg :=
  match registerNames.find? (fun r => r.1 == name || r.2.1 == name) with
  | some r => .ok r.2.2
  | none => .error (.notARegister name)

/-- The value of one digit in a base of at most 16. -/
def digitValue (base : Nat) (c : Char) : Option Nat :=
  let v := if '0'.toNat ≤ c.toNat ∧ c.toNat ≤ '9'.toNat then c.toNat - '0'.toNat
    else if 'a'.toNat ≤ c.toNat ∧ c.toNat ≤ 'f'.toNat then c.toNat - 'a'.toNat + 10
    else if 'A'.toNat ≤ c.toNat ∧ c.toNat ≤ 'F'.toNat then c.toNat - 'A'.toNat + 10
    else 16
  if v < base then some v else none

/-- Digits read after an accumulated value. -/
def digitsFrom (base : Nat) : Nat → List Char → Option Nat
  | acc, [] => some acc
  | acc, c :: cs =>
    match digitValue base c with
    | some v => digitsFrom base (acc * base + v) cs
    | none => none

/-- At least one digit. -/
def digits (base : Nat) : List Char → Option Nat
  | [] => none
  | c :: cs => digitsFrom base 0 (c :: cs)

/-- "If number, hex (C format, e.g. 0xffff) or decimal (can have sign)" (R243; notes/assumptions/21). -/
def numberOfChars : List Char → Option Int
  | '0' :: 'x' :: cs => (digits 16 cs).map Int.ofNat
  | '0' :: 'X' :: cs => (digits 16 cs).map Int.ofNat
  | '-' :: cs => (digits 10 cs).map fun n => - Int.ofNat n
  | '+' :: cs => (digits 10 cs).map Int.ofNat
  | cs => (digits 10 cs).map Int.ofNat

/-- A token that starts like a number is a number, any other a label (R243; notes/assumptions/21). -/
def startsNumber : List Char → Bool
  | [] => false
  | c :: _ => c == '-' || c == '+' || (digitValue 10 c).isSome

/-- A number token. -/
def numberOf (text : String) : Except AsmError Int :=
  match numberOfChars text.toList with
  | some n => .ok n
  | none => .error (.notANumber text)

/-! ### Immediates -/

/-- How an operand that is a label becomes a field (R243 to R245). `pcRelative k`: the branch is word `k` of the
expansion. -/
inductive ImmRule where
  | value
  | pcRelative (wordsBefore : Nat)
  | jal
  deriving DecidableEq, Repr

/-- `ASM_JAL_LABEL_RULE`, OPEN in 00_scope.md R5 (R245; 92_eei_decisions.md D25). -/
inductive JalLabelRule where
  | wordIndex
  | literal
  deriving DecidableEq, Repr

/-- The rule R245 takes by default. -/
def jalLabelDefault : JalLabelRule := .wordIndex

/-- The field of a number: -32768..65535 accepted, the low 16 bits kept (R246). -/
def numberField (n : Int) : Except AsmError Imm :=
  if -32768 ≤ n ∧ n ≤ 65535 then .ok (BitVec.ofInt 16 n) else .error (.outOfRange n)

/-- The field of a label in a branch at `pc`: `(label_address - pc - 4) / 4`, exact and in 16 signed bits
(R243; 90_conflicts.md C5; 92_eei_decisions.md D24). -/
def branchField (target pc : Int) : Except AsmError Imm :=
  let d := target - pc - 4
  if d % 4 = 0 ∧ -32768 ≤ d / 4 ∧ d / 4 ≤ 32767 then .ok (BitVec.ofInt 16 (d / 4))
  else .error (.unreachable target)

/-- The field of a label outside branches and JAL: `label_address[15:0]` (R244). -/
def labelField (value : Int) : Imm := BitVec.ofInt 16 value

/-- The field of a label in JAL, CALL, JMP (R245). The rule says `label_address / 4` and nothing of a label that is no
multiple of 4: by the word index rule such a label is rounded down. DESIGN CHOICE (notes/assumptions/29). -/
def jalField (rule : JalLabelRule) (value : Int) : Imm :=
  match rule with
  | .wordIndex => BitVec.ofInt 16 (value / 4)
  | .literal => BitVec.ofInt 16 value

/-- Labels and `.NAME` definitions with their values. -/
abbrev Symbols := List (String × Int)

/-- What a label stands for (R242, R249). Names are compared letter for letter, so `Loop` and `loop` are two labels;
R241 leaves that open. DESIGN CHOICE (notes/assumptions/28). -/
def valueOf (syms : Symbols) (name : String) : Except AsmError Int :=
  match syms.find? (fun p => p.1 == name) with
  | some p => .ok p.2
  | none => .error (.undefinedLabel name)

/-- The immediate field an operand text gives in an instruction placed at `addr`: a number as it is, a label by the
rule of its mnemonic (R243 to R246). -/
def fieldOf (jalRule : JalLabelRule) (syms : Symbols) (rule : ImmRule) (addr : Int) (text : String) :
    Except AsmError Imm :=
  if startsNumber text.toList then (numberOf text).bind numberField
  else (valueOf syms text).bind fun v =>
    match rule with
    | .value => .ok (labelField v)
    | .pcRelative k => branchField v (addr + 4 * k)
    | .jal => .ok (jalField jalRule v)

/-- The word of a `.WORD` value: -2^31..2^32 - 1 accepted, the low 32 bits kept (R246; 92_eei_decisions.md D27;
93_implementation_defined.md section 2). -/
def wordValue (n : Int) : Except AsmError Word :=
  if -2147483648 ≤ n ∧ n ≤ 4294967295 then .ok (BitVec.ofInt 32 n) else .error (.outOfRange n)

/-- The word of a `.WORD`, its value a number or a label's (R248, R249). -/
def wordOf (syms : Symbols) (text : String) : Except AsmError Word :=
  if startsNumber text.toList then (numberOf text).bind wordValue
  else (valueOf syms text).bind wordValue

/-! ### Mnemonics (R240) -/

/-- The operand shapes of the fmt strings, each with the instructions it gives. -/
inductive Shape where
  /-- `RS2,RS1,RD`. -/
  | regRegReg (mk : Reg → Reg → Reg → List Instr)
  /-- `imm,RS1,RD` and `imm,RS2,RS1`. -/
  | immRegReg (mk : Imm → Reg → Reg → List Instr)
  /-- `imm,RD` and `imm,RS1`. -/
  | immReg (mk : Imm → Reg → List Instr)
  /-- `imm(RS1),RD` and `imm(RS1),RS2`. -/
  | indexedReg (mk : Imm → Reg → Reg → List Instr)
  /-- `imm`. -/
  | imm (mk : Imm → List Instr)
  /-- `RS,RD`. -/
  | regReg (mk : Reg → Reg → List Instr)
  /-- `imm(RS1)`. -/
  | indexed (mk : Imm → Reg → List Instr)
  /-- No operands. -/
  | none (mk : List Instr)

/-- A mnemonic in its two spellings, how many words it takes, its label rule and its operands. -/
structure Entry where
  upper : String
  lower : String
  words : Nat
  rule : ImmRule
  shape : Shape

/-- ALU-R. -/
def entriesAluR : List Entry :=
  [⟨"ADD", "add", 1, .value, .regRegReg fun a b c => [.add a b c]⟩,
   ⟨"SUB", "sub", 1, .value, .regRegReg fun a b c => [.sub a b c]⟩,
   ⟨"AND", "and", 1, .value, .regRegReg fun a b c => [.and a b c]⟩,
   ⟨"OR", "or", 1, .value, .regRegReg fun a b c => [.or a b c]⟩,
   ⟨"XOR", "xor", 1, .value, .regRegReg fun a b c => [.xor a b c]⟩,
   ⟨"NAND", "nand", 1, .value, .regRegReg fun a b c => [.nand a b c]⟩,
   ⟨"NOR", "nor", 1, .value, .regRegReg fun a b c => [.nor a b c]⟩,
   ⟨"XNOR", "xnor", 1, .value, .regRegReg fun a b c => [.xnor a b c]⟩]

/-- ALU-I. -/
def entriesAluI : List Entry :=
  [⟨"ADDI", "addi", 1, .value, .immRegReg fun a b c => [.addi a b c]⟩,
   ⟨"SUBI", "subi", 1, .value, .immRegReg fun a b c => [.subi a b c]⟩,
   ⟨"ANDI", "andi", 1, .value, .immRegReg fun a b c => [.andi a b c]⟩,
   ⟨"ORI", "ori", 1, .value, .immRegReg fun a b c => [.ori a b c]⟩,
   ⟨"XORI", "xori", 1, .value, .immRegReg fun a b c => [.xori a b c]⟩,
   ⟨"NANDI", "nandi", 1, .value, .immRegReg fun a b c => [.nandi a b c]⟩,
   ⟨"NORI", "nori", 1, .value, .immRegReg fun a b c => [.nori a b c]⟩,
   ⟨"XNORI", "xnori", 1, .value, .immRegReg fun a b c => [.xnori a b c]⟩,
   ⟨"MVHI", "mvhi", 1, .value, .immReg fun a b => [.mvhi a b]⟩]

/-- Load/Store. -/
def entriesLoadStore : List Entry :=
  [⟨"LW", "lw", 1, .value, .indexedReg fun a b c => [.lw a b c]⟩,
   ⟨"SW", "sw", 1, .value, .indexedReg fun a b c => [.sw a b c]⟩]

/-- CMP-R. -/
def entriesCmpR : List Entry :=
  [⟨"F", "f", 1, .value, .regRegReg fun a b c => [.f a b c]⟩,
   ⟨"EQ", "eq", 1, .value, .regRegReg fun a b c => [.eq a b c]⟩,
   ⟨"LT", "lt", 1, .value, .regRegReg fun a b c => [.lt a b c]⟩,
   ⟨"LTE", "lte", 1, .value, .regRegReg fun a b c => [.lte a b c]⟩,
   ⟨"T", "t", 1, .value, .regRegReg fun a b c => [.t a b c]⟩,
   ⟨"NE", "ne", 1, .value, .regRegReg fun a b c => [.ne a b c]⟩,
   ⟨"GTE", "gte", 1, .value, .regRegReg fun a b c => [.gte a b c]⟩,
   ⟨"GT", "gt", 1, .value, .regRegReg fun a b c => [.gt a b c]⟩]

/-- CMP-I. -/
def entriesCmpI : List Entry :=
  [⟨"FI", "fi", 1, .value, .immRegReg fun a b c => [.fi a b c]⟩,
   ⟨"EQI", "eqi", 1, .value, .immRegReg fun a b c => [.eqi a b c]⟩,
   ⟨"LTI", "lti", 1, .value, .immRegReg fun a b c => [.lti a b c]⟩,
   ⟨"LTEI", "ltei", 1, .value, .immRegReg fun a b c => [.ltei a b c]⟩,
   ⟨"TI", "ti", 1, .value, .immRegReg fun a b c => [.ti a b c]⟩,
   ⟨"NEI", "nei", 1, .value, .immRegReg fun a b c => [.nei a b c]⟩,
   ⟨"GTEI", "gtei", 1, .value, .immRegReg fun a b c => [.gtei a b c]⟩,
   ⟨"GTI", "gti", 1, .value, .immRegReg fun a b c => [.gti a b c]⟩]

/-- BRANCH. -/
def entriesBranch : List Entry :=
  [⟨"BF", "bf", 1, .pcRelative 0, .immRegReg fun a b c => [.bf a b c]⟩,
   ⟨"BEQ", "beq", 1, .pcRelative 0, .immRegReg fun a b c => [.beq a b c]⟩,
   ⟨"BLT", "blt", 1, .pcRelative 0, .immRegReg fun a b c => [.blt a b c]⟩,
   ⟨"BLTE", "blte", 1, .pcRelative 0, .immRegReg fun a b c => [.blte a b c]⟩,
   ⟨"BEQZ", "beqz", 1, .pcRelative 0, .immReg fun a b => [.beqz a b]⟩,
   ⟨"BLTZ", "bltz", 1, .pcRelative 0, .immReg fun a b => [.bltz a b]⟩,
   ⟨"BLTEZ", "bltez", 1, .pcRelative 0, .immReg fun a b => [.bltez a b]⟩,
   ⟨"BT", "bt", 1, .pcRelative 0, .immRegReg fun a b c => [.bt a b c]⟩,
   ⟨"BNE", "bne", 1, .pcRelative 0, .immRegReg fun a b c => [.bne a b c]⟩,
   ⟨"BGTE", "bgte", 1, .pcRelative 0, .immRegReg fun a b c => [.bgte a b c]⟩,
   ⟨"BGT", "bgt", 1, .pcRelative 0, .immRegReg fun a b c => [.bgt a b c]⟩,
   ⟨"BNEZ", "bnez", 1, .pcRelative 0, .immReg fun a b => [.bnez a b]⟩,
   ⟨"BGTEZ", "bgtez", 1, .pcRelative 0, .immReg fun a b => [.bgtez a b]⟩,
   ⟨"BGTZ", "bgtz", 1, .pcRelative 0, .immReg fun a b => [.bgtz a b]⟩]

/-- JAL. -/
def entriesJal : List Entry :=
  [⟨"JAL", "jal", 1, .jal, .indexedReg fun a b c => [.jal a b c]⟩]

/-- The pseudo-instructions (R230 to R237); the branch of BLE and BGE is their second word. -/
def entriesPseudo : List Entry :=
  [⟨"B", "b", 1, .pcRelative 0, .imm fun a => Pseudo.expand (.b a)⟩,
   ⟨"NOT", "not", 1, .value, .regReg fun a b => Pseudo.expand (.not a b)⟩,
   ⟨"BLE", "ble", 2, .pcRelative 1, .immRegReg fun a b c => Pseudo.expand (.ble a b c)⟩,
   ⟨"BGE", "bge", 2, .pcRelative 1, .immRegReg fun a b c => Pseudo.expand (.bge a b c)⟩,
   ⟨"CALL", "call", 1, .jal, .indexed fun a b => Pseudo.expand (.call a b)⟩,
   ⟨"RET", "ret", 1, .value, .none (Pseudo.expand .ret)⟩,
   ⟨"JMP", "jmp", 1, .jal, .indexed fun a b => Pseudo.expand (.jmp a b)⟩]

/-- Every mnemonic the assembler accepts. -/
def entries : List Entry :=
  entriesAluR ++ entriesAluI ++ entriesLoadStore ++ entriesCmpR ++ entriesCmpI ++ entriesBranch ++ entriesJal ++
    entriesPseudo

/-- A mnemonic in upper or lower case (R241). -/
def entryOf (mnemonic : String) : Except AsmError Entry :=
  match entries.find? (fun e => e.upper == mnemonic || e.lower == mnemonic) with
  | some e => .ok e
  | none => .error (.unknownMnemonic mnemonic)

/-- The letters of a name in lower case. -/
def lowerCase (name : String) : List Char := name.toList.map Char.toLower

/-- "Instruction opcodes and register names: Are reserved words (can't be used as labels)" (R241), "in any letter case"
(93_implementation_defined.md section 1). -/
def reservedWord (name : String) : Bool :=
  entries.any (fun e => lowerCase e.upper == lowerCase name) ||
    registerNames.any (fun r => lowerCase r.1 == lowerCase name)

/-- The instructions of one assembler line at `addr`, operands read by the fmt (R240). -/
def instrsOf (e : Entry) (field : String → Except AsmError Imm) (ops : List Operand) :
    Except AsmError (List Instr) :=
  match e.shape, ops with
  | .regRegReg mk, [.plain a, .plain b, .plain c] =>
    (registerOf a).bind fun a => (registerOf b).bind fun b => (registerOf c).bind fun c => .ok (mk a b c)
  | .immRegReg mk, [.plain i, .plain a, .plain b] =>
    (field i).bind fun i => (registerOf a).bind fun a => (registerOf b).bind fun b => .ok (mk i a b)
  | .immReg mk, [.plain i, .plain a] =>
    (field i).bind fun i => (registerOf a).bind fun a => .ok (mk i a)
  | .indexedReg mk, [.indexed i a, .plain b] =>
    (field i).bind fun i => (registerOf a).bind fun a => (registerOf b).bind fun b => .ok (mk i a b)
  | .imm mk, [.plain i] => (field i).bind fun i => .ok (mk i)
  | .regReg mk, [.plain a, .plain b] =>
    (registerOf a).bind fun a => (registerOf b).bind fun b => .ok (mk a b)
  | .indexed mk, [.indexed i a] =>
    (field i).bind fun i => (registerOf a).bind fun a => .ok (mk i a)
  | .none mk, [] => .ok mk
  | _, _ => .error (.wrongOperands e.upper)

/-! ### Two passes (R242: a label may stand before its definition) -/

/-- The current address, where one is known (R247). -/
def currentAddress (cur : Option Int) : Except AsmError Int :=
  match cur with
  | some a => .ok a
  | none => .error .noOrigin

/-- A new symbol, neither reserved nor already defined (R241). Two labels that differ in letter case alone are two labels:
DESIGN CHOICE (notes/assumptions/28). A name may have any characters, since R242 does not state which it may have: the empty
name and one that starts like a number are accepted, though no operand can name the latter. DESIGN CHOICE
(notes/assumptions/30). -/
def addSymbol (syms : Symbols) (name : String) (value : Int) : Except AsmError Symbols :=
  if reservedWord name then .error (.reservedLabel name)
  else if syms.any (fun p => p.1 == name) then .error (.duplicateLabel name)
  else .ok ((name, value) :: syms)

/-- First pass: the values of labels and names. Each instruction word and each `.WORD` moves the address by 4 (R247). An
`.ORIG` may give any number, and a label there stands for it: R247 does not state what happens at an address that is no
multiple of 4 or outside the RAM, and only a word placed there is refused. DESIGN CHOICE (notes/assumptions/31). A `.NAME` may give a number of any size:
R249 sets no limit. DESIGN CHOICE (notes/assumptions/32). -/
def collect : List Line → Option Int → Symbols → Except AsmError Symbols
  | [], _, syms => .ok syms
  | .label n :: ls, cur, syms =>
    (currentAddress cur).bind fun a => (addSymbol syms n a).bind fun syms => collect ls cur syms
  | .op m _ :: ls, cur, syms =>
    (entryOf m).bind fun e => (currentAddress cur).bind fun a => collect ls (some (a + 4 * e.words)) syms
  | .orig t :: ls, _, syms => (numberOf t).bind fun a => collect ls (some a) syms
  | .word _ :: ls, cur, syms => (currentAddress cur).bind fun a => collect ls (some (a + 4)) syms
  | .nameDef n t :: ls, cur, syms =>
    (numberOf t).bind fun v => (addSymbol syms n v).bind fun syms => collect ls cur syms

/-- Words of the image placed so far, by index. -/
abbrev Placed := List (Nat × Word)

/-- One word placed at a RAM word that is still free. -/
def placeWord (placed : Placed) (addr : Int) (w : Word) : Except AsmError Placed :=
  if addr % 4 = 0 ∧ 0 ≤ addr ∧ addr < ramBytes then
    if placed.any (fun p => p.1 == (addr / 4).toNat) then .error (.occupied addr)
    else .ok (((addr / 4).toNat, w) :: placed)
  else .error (.badAddress addr)

/-- Words placed one after another. -/
def placeWords : Placed → Int → List Word → Except AsmError Placed
  | placed, _, [] => .ok placed
  | placed, a, w :: ws => (placeWord placed a w).bind fun placed => placeWords placed (a + 4) ws

/-- Second pass: the words of every line (R247, R248). -/
def emit (jalRule : JalLabelRule) (syms : Symbols) : List Line → Option Int → Placed → Except AsmError Placed
  | [], _, placed => .ok placed
  | .label _ :: ls, cur, placed => emit jalRule syms ls cur placed
  | .op m ops :: ls, cur, placed =>
    (entryOf m).bind fun e => (currentAddress cur).bind fun a =>
      (instrsOf e (fieldOf jalRule syms e.rule a) ops).bind fun is =>
        (placeWords placed a (is.map encode)).bind fun placed => emit jalRule syms ls (some (a + 4 * e.words)) placed
  | .orig t :: ls, _, placed => (numberOf t).bind fun a => emit jalRule syms ls (some a) placed
  | .word t :: ls, cur, placed =>
    (currentAddress cur).bind fun a => (wordOf syms t).bind fun w =>
      (placeWord placed a w).bind fun placed => emit jalRule syms ls (some (a + 4)) placed
  | .nameDef _ _ :: ls, cur, placed => emit jalRule syms ls cur placed

/-- Both passes: the words the program defines. -/
def assembleWords (jalRule : JalLabelRule) (program : List Line) : Except AsmError Placed :=
  (collect program none []).bind fun syms => emit jalRule syms program none []

/-- The image word `k`: the program's, else the fill, `MEM_FILL` of 00_scope.md R5. -/
def imageWord (fill : Word) (placed : Placed) (k : Nat) : Word :=
  match placed.find? (fun p => p.1 == k) with
  | some p => p.2
  | none => fill

/-- "it must output a MIF file with 2048 32-bit words of memory" (R250). -/
def assemble (jalRule : JalLabelRule) (fill : Word) (program : List Line) : Except AsmError (List Word) :=
  (assembleWords jalRule program).bind fun placed => .ok ((List.range ramWords).map (imageWord fill placed))

end Sys2Proof.Machine
end

