-- ==== Sys2Proof/Machine/Boot.lean ====
section
/-! DEFINITION. Starting the machine with an image (10_state.md R34; 70_reset_and_hazards.md R300, R301;
60_exceptions.md R284): what the loader outside the machine does before execution starts (notes/assumptions/16). -/

namespace Sys2Proof.Machine

/-- The start values R5 and R34 leave open, as arguments. -/
structure StartValues where
  /-- `REG_RESET`. -/
  regs : Vector Word 16
  hex : BitVec 16
  ledr : BitVec 10
  deriving DecidableEq, Repr

/-- The start values `State.reset` takes (notes/assumptions/2, 4). -/
def StartValues.chosen : StartValues := ⟨Vector.replicate 16 regReset, hexReset, ledrReset⟩

/-- Words laid one after another from a byte address. -/
def loadWords : List Word → Nat → Memory → Memory
  | [], _, m => m
  | w :: ws, a, m => loadWords ws (a + 4) (m.writeWord a w)

/-- The state at the start of a run: word `k` of the image at byte address `4k` (20_memory.md R41), no word marked as
stored to, `pc` at 0x40; an image has at most 2048 words. -/
def boot (v : StartValues) (image : List Word) : State where
  regs := v.regs
  pc := pcReset
  mem := loadWords (image.take ramWords) 0 []
  hex := v.hex
  ledr := v.ledr
  dirty := []
  draws := 0

end Sys2Proof.Machine
end

