-- ==== Sys2Proof/Machine/Observe.lean ====
section
/-! DEFINITION. What the person at the board sees (20_memory.md R45, R46, R55; 60_exceptions.md R284): the latches and
the store events. Events are a function of the instruction and the state it runs in, not a field of State
(10_state.md R20; notes/assumptions/23). -/

namespace Sys2Proof.Machine

/-- A store that reaches an output device, with what it shows. -/
inductive OutputEvent where
  | hex (shown : BitVec 16)
  | ledr (shown : BitVec 10)
  deriving DecidableEq, Repr

/-- The event of a store of `v` to an address: a store to `HEX` or `LEDR`, the same value stored again included
(20_memory.md R55). -/
def storeEvent (addr v : Word) : Option OutputEvent :=
  if addr = addrHex then some (.hex (v.extractLsb' 0 16))
  else if addr = addrLedr then some (.ledr (v.extractLsb' 0 10))
  else none

/-- The event of an instruction: only SW has one, the only instruction that accesses a device for writing
(20_memory.md R40, R45, R46). -/
def outputEvent (i : Instr) (s : State) : Option OutputEvent :=
  match i with
  | .sw imm rs1 rs2 => storeEvent (effectiveAddress s rs1 imm) (s.readReg rs2)
  | _ => none

/-- The four hexadecimal digits the display shows, most significant first: `HEX[15:12]` leads (20_memory.md R45). -/
def hexDigits (s : State) : List (BitVec 4) :=
  [s.hex.extractLsb' 12 4, s.hex.extractLsb' 8 4, s.hex.extractLsb' 4 4, s.hex.extractLsb' 0 4]

/-- LED `i` is lit (20_memory.md R46; the mapping is PRESUMED, notes/assumptions/22). -/
def ledLit (s : State) (i : Fin 10) : Bool := s.ledr.getLsbD i

end Sys2Proof.Machine
end

