-- ==== Sys2Proof/Safety.lean ====
section
/-! DEFINITION. What counts as a well-formed state, a defined step, a safe run and the end of a run. -/

namespace Sys2Proof.Machine

/-- The invariant of the representation: the RAM is in canonical form and lists RAM bytes alone, and the written-word
bits are a strictly rising list of RAM word indices (20_memory.md R41; 10_state.md R31, R32). -/
abbrev State.inv (s : State) : Prop :=
  s.mem.wf ∧ s.mem.inRam ∧ s.dirty.Pairwise (· < ·) ∧ ∀ k ∈ s.dirty, k < ramWords

/-- The RAM word at an index (20_memory.md R41: word `k` at byte address `4k`). -/
def State.ramWord (s : State) (k : Nat) : Word := s.mem.readWord (4 * k)

/-- Every RAM word no SW has written since reset still holds the image's word (20_memory.md R59). -/
def codeIntact (image : Nat → Word) (s : State) : Prop :=
  ∀ k, k < ramWords → k ∉ s.dirty → s.ramWord k = image k

/-- An address LW may use (20_memory.md R42, R50). -/
def loadable (ea : Word) : Bool :=
  ea.toNat % 4 == 0 && (decide (ea.toNat < 8192) || ea == 0xF0000010#32 || ea == 0xF0000014#32)

/-- An address SW may use (20_memory.md R42, R51). -/
def storable (ea : Word) : Bool :=
  ea.toNat % 4 == 0 && (decide (ea.toNat < 8192) || ea == 0xF0000000#32 || ea == 0xF0000004#32)

/-- The data access of an instruction, if it makes one, is aligned and mapped in its direction
(70_reset_and_hazards.md R305). -/
def accessDefined (i : Instr) (s : State) : Bool :=
  match i with
  | .lw imm rs1 _ => loadable (s.readReg rs1 + imm.signExtend 32)
  | .sw imm rs1 _ => storable (s.readReg rs1 + imm.signExtend 32)
  | _ => true

/-- What software must see to for its next step to be defined (70_reset_and_hazards.md R305): an aligned `pc` in the
RAM, at a word no SW has written, holding a listed instruction whose data access is defined. -/
def stepDefined (s : State) : Prop :=
  s.pc.toNat % 4 = 0 ∧ s.pc.toNat < 8192 ∧ s.pc.toNat / 4 ∉ s.dirty ∧
    ∃ i, decode (s.mem.readWord s.pc.toNat) = .ok i ∧ accessDefined i s = true

/-- A safe run of `k` steps: each of its first `k` states meets `stepDefined` (70_reset_and_hazards.md R305). -/
def runsSafely : Nat → State → Prop
  | 0, _ => True
  | k + 1, s => stepDefined s ∧ ∀ t, step s = .next t → runsSafely k t

/-- The end of a run: one step leads to the same `pc`, registers, RAM, `HEX` and `LEDR`
(70_reset_and_hazards.md R309; 92_eei_decisions.md D19; notes/assumptions/24). -/
def endState (s : State) : Prop :=
  ∃ t, step s = .next t ∧ t.pc = s.pc ∧ t.regs = s.regs ∧ t.mem = s.mem ∧ t.hex = s.hex ∧ t.ledr = s.ledr

/-! ### The words of the claims: what is written, what is left alone, what is named -/

/-- No RAM byte, device latch, written-word bit or draw differs. -/
def sameMemoryAndDevices (s t : State) : Prop :=
  (∀ a, t.mem.readByte a = s.mem.readByte a) ∧ t.hex = s.hex ∧ t.ledr = s.ledr ∧ t.dirty = s.dirty ∧
    t.draws = s.draws

/-- Every register but one reads as before. -/
def sameRegistersBut (rd : Reg) (s t : State) : Prop := ∀ r, r ≠ rd → t.readReg r = s.readReg r

/-- Every register reads as before. -/
def sameRegisters (s t : State) : Prop := ∀ r, t.readReg r = s.readReg r

/-- An instruction that writes RD alone and goes on to the next one: `v` is what RD reads afterwards. -/
def writesRegister (rd : Reg) (v : Word) (s t : State) : Prop :=
  t.pc = s.pc + 4#32 ∧ t.readReg rd = v ∧ sameRegistersBut rd s t ∧ sameMemoryAndDevices s t

/-- An instruction that writes nothing but `pc`. -/
def writesPcOnly (pc : Word) (s t : State) : Prop := t.pc = pc ∧ sameRegisters s t ∧ sameMemoryAndDevices s t

/-- Instructions run one after another, without fetching them. -/
def execAll : List Instr → State → Host.Outcome State Fault Refusal
  | [], s => .next s
  | i :: is, s =>
    match exec i s with
    | .next t => execAll is t
    | .fault f => .fault f
    | .refused r => .refused r

/-- The register an instruction writes, its RD field (10_state.md R22). -/
def destination (i : Instr) : Option Reg :=
  match i with
  | .add _ _ rd => some rd
  | .sub _ _ rd => some rd
  | .and _ _ rd => some rd
  | .or _ _ rd => some rd
  | .xor _ _ rd => some rd
  | .nand _ _ rd => some rd
  | .nor _ _ rd => some rd
  | .xnor _ _ rd => some rd
  | .addi _ _ rd => some rd
  | .subi _ _ rd => some rd
  | .andi _ _ rd => some rd
  | .ori _ _ rd => some rd
  | .xori _ _ rd => some rd
  | .nandi _ _ rd => some rd
  | .nori _ _ rd => some rd
  | .xnori _ _ rd => some rd
  | .mvhi _ rd => some rd
  | .lw _ _ rd => some rd
  | .sw _ _ _ => none
  | .f _ _ rd => some rd
  | .eq _ _ rd => some rd
  | .lt _ _ rd => some rd
  | .lte _ _ rd => some rd
  | .t _ _ rd => some rd
  | .ne _ _ rd => some rd
  | .gte _ _ rd => some rd
  | .gt _ _ rd => some rd
  | .fi _ _ rd => some rd
  | .eqi _ _ rd => some rd
  | .lti _ _ rd => some rd
  | .ltei _ _ rd => some rd
  | .ti _ _ rd => some rd
  | .nei _ _ rd => some rd
  | .gtei _ _ rd => some rd
  | .gti _ _ rd => some rd
  | .bf _ _ _ => none
  | .beq _ _ _ => none
  | .blt _ _ _ => none
  | .blte _ _ _ => none
  | .beqz _ _ => none
  | .bltz _ _ => none
  | .bltez _ _ => none
  | .bt _ _ _ => none
  | .bne _ _ _ => none
  | .bgte _ _ _ => none
  | .bgt _ _ _ => none
  | .bnez _ _ => none
  | .bgtez _ _ => none
  | .bgtz _ _ => none
  | .jal _ _ rd => some rd

/-- The registers an instruction reads: its RS1 and RS2 fields, none in F, T, FI, TI, BF, BT and MVHI
(43_cmp_r.md R151, R155; 44_cmp_i.md R171, R175; 45_branch.md R192, R199; 41_alu_i.md R129). -/
def sources (i : Instr) : List Reg :=
  match i with
  | .add rs2 rs1 _ => [rs1, rs2]
  | .sub rs2 rs1 _ => [rs1, rs2]
  | .and rs2 rs1 _ => [rs1, rs2]
  | .or rs2 rs1 _ => [rs1, rs2]
  | .xor rs2 rs1 _ => [rs1, rs2]
  | .nand rs2 rs1 _ => [rs1, rs2]
  | .nor rs2 rs1 _ => [rs1, rs2]
  | .xnor rs2 rs1 _ => [rs1, rs2]
  | .addi _ rs1 _ => [rs1]
  | .subi _ rs1 _ => [rs1]
  | .andi _ rs1 _ => [rs1]
  | .ori _ rs1 _ => [rs1]
  | .xori _ rs1 _ => [rs1]
  | .nandi _ rs1 _ => [rs1]
  | .nori _ rs1 _ => [rs1]
  | .xnori _ rs1 _ => [rs1]
  | .mvhi _ _ => []
  | .lw _ rs1 _ => [rs1]
  | .sw _ rs1 rs2 => [rs1, rs2]
  | .f _ _ _ => []
  | .eq rs2 rs1 _ => [rs1, rs2]
  | .lt rs2 rs1 _ => [rs1, rs2]
  | .lte rs2 rs1 _ => [rs1, rs2]
  | .t _ _ _ => []
  | .ne rs2 rs1 _ => [rs1, rs2]
  | .gte rs2 rs1 _ => [rs1, rs2]
  | .gt rs2 rs1 _ => [rs1, rs2]
  | .fi _ _ _ => []
  | .eqi _ rs1 _ => [rs1]
  | .lti _ rs1 _ => [rs1]
  | .ltei _ rs1 _ => [rs1]
  | .ti _ _ _ => []
  | .nei _ rs1 _ => [rs1]
  | .gtei _ rs1 _ => [rs1]
  | .gti _ rs1 _ => [rs1]
  | .bf _ _ _ => []
  | .beq _ rs2 rs1 => [rs1, rs2]
  | .blt _ rs2 rs1 => [rs1, rs2]
  | .blte _ rs2 rs1 => [rs1, rs2]
  | .beqz _ rs1 => [rs1]
  | .bltz _ rs1 => [rs1]
  | .bltez _ rs1 => [rs1]
  | .bt _ _ _ => []
  | .bne _ rs2 rs1 => [rs1, rs2]
  | .bgte _ rs2 rs1 => [rs1, rs2]
  | .bgt _ rs2 rs1 => [rs1, rs2]
  | .bnez _ rs1 => [rs1]
  | .bgtez _ rs1 => [rs1]
  | .bgtz _ rs1 => [rs1]
  | .jal _ rs1 _ => [rs1]

/-- The immediate of a branch and whether its condition holds, from the table of 45_branch.md R207; none for an
instruction that is no branch. -/
def branchOf (i : Instr) (s : State) : Option (Imm × Bool) :=
  match i with
  | .bf imm _ _ => some (imm, false)
  | .beq imm rs2 rs1 => some (imm, decide (s.readReg rs1 = s.readReg rs2))
  | .blt imm rs2 rs1 => some (imm, decide ((s.readReg rs1).toInt < (s.readReg rs2).toInt))
  | .blte imm rs2 rs1 => some (imm, decide ((s.readReg rs1).toInt ≤ (s.readReg rs2).toInt))
  | .beqz imm rs1 => some (imm, decide (s.readReg rs1 = 0#32))
  | .bltz imm rs1 => some (imm, decide ((s.readReg rs1).toInt < 0))
  | .bltez imm rs1 => some (imm, decide ((s.readReg rs1).toInt ≤ 0))
  | .bt imm _ _ => some (imm, true)
  | .bne imm rs2 rs1 => some (imm, decide (s.readReg rs1 ≠ s.readReg rs2))
  | .bgte imm rs2 rs1 => some (imm, decide ((s.readReg rs1).toInt ≥ (s.readReg rs2).toInt))
  | .bgt imm rs2 rs1 => some (imm, decide ((s.readReg rs1).toInt > (s.readReg rs2).toInt))
  | .bnez imm rs1 => some (imm, decide (s.readReg rs1 ≠ 0#32))
  | .bgtez imm rs1 => some (imm, decide ((s.readReg rs1).toInt ≥ 0))
  | .bgtz imm rs1 => some (imm, decide ((s.readReg rs1).toInt > 0))
  | _ => none

/-! ### The fields of a word (30_encoding.md R82: the letters i, t, s, d of the patterns) -/

/-- Format R: zeros in bits 23:12, RS2 in bits 11:8, RS1 in bits 7:4, RD in bits 3:0 (R71). -/
def readR (w : Word) (rs2 rs1 rd : Reg) : Prop :=
  w.extractLsb' 12 12 = 0#12 ∧ rs2 = (w.extractLsb' 8 4).toFin ∧ rs1 = (w.extractLsb' 4 4).toFin ∧
    rd = (w.extractLsb' 0 4).toFin

/-- Format I: imm in bits 23:8, RS1 in bits 7:4, RD in bits 3:0 (R72); RS1 zero in sub-form I0 (R74). -/
def readI (w : Word) (imm : Imm) (rs1 rd : Reg) : Prop :=
  imm = w.extractLsb' 8 16 ∧ rs1 = (w.extractLsb' 4 4).toFin ∧ rd = (w.extractLsb' 0 4).toFin

/-- Format S: imm in bits 23:8, RS2 in bits 7:4, RS1 in bits 3:0 (R73); RS2 zero in sub-form S0 (R74). -/
def readS (w : Word) (imm : Imm) (rs2 rs1 : Reg) : Prop :=
  imm = w.extractLsb' 8 16 ∧ rs2 = (w.extractLsb' 4 4).toFin ∧ rs1 = (w.extractLsb' 0 4).toFin

/-- An instruction's operands are the fields its pattern in R82 names. -/
def operandsRead (w : Word) (i : Instr) : Prop :=
  match i with
  | .add rs2 rs1 rd => readR w rs2 rs1 rd
  | .sub rs2 rs1 rd => readR w rs2 rs1 rd
  | .and rs2 rs1 rd => readR w rs2 rs1 rd
  | .or rs2 rs1 rd => readR w rs2 rs1 rd
  | .xor rs2 rs1 rd => readR w rs2 rs1 rd
  | .nand rs2 rs1 rd => readR w rs2 rs1 rd
  | .nor rs2 rs1 rd => readR w rs2 rs1 rd
  | .xnor rs2 rs1 rd => readR w rs2 rs1 rd
  | .addi imm rs1 rd => readI w imm rs1 rd
  | .subi imm rs1 rd => readI w imm rs1 rd
  | .andi imm rs1 rd => readI w imm rs1 rd
  | .ori imm rs1 rd => readI w imm rs1 rd
  | .xori imm rs1 rd => readI w imm rs1 rd
  | .nandi imm rs1 rd => readI w imm rs1 rd
  | .nori imm rs1 rd => readI w imm rs1 rd
  | .xnori imm rs1 rd => readI w imm rs1 rd
  | .mvhi imm rd => readI w imm 0 rd
  | .lw imm rs1 rd => readI w imm rs1 rd
  | .sw imm rs1 rs2 => readS w imm rs2 rs1
  | .f rs2 rs1 rd => readR w rs2 rs1 rd
  | .eq rs2 rs1 rd => readR w rs2 rs1 rd
  | .lt rs2 rs1 rd => readR w rs2 rs1 rd
  | .lte rs2 rs1 rd => readR w rs2 rs1 rd
  | .t rs2 rs1 rd => readR w rs2 rs1 rd
  | .ne rs2 rs1 rd => readR w rs2 rs1 rd
  | .gte rs2 rs1 rd => readR w rs2 rs1 rd
  | .gt rs2 rs1 rd => readR w rs2 rs1 rd
  | .fi imm rs1 rd => readI w imm rs1 rd
  | .eqi imm rs1 rd => readI w imm rs1 rd
  | .lti imm rs1 rd => readI w imm rs1 rd
  | .ltei imm rs1 rd => readI w imm rs1 rd
  | .ti imm rs1 rd => readI w imm rs1 rd
  | .nei imm rs1 rd => readI w imm rs1 rd
  | .gtei imm rs1 rd => readI w imm rs1 rd
  | .gti imm rs1 rd => readI w imm rs1 rd
  | .bf imm rs2 rs1 => readS w imm rs2 rs1
  | .beq imm rs2 rs1 => readS w imm rs2 rs1
  | .blt imm rs2 rs1 => readS w imm rs2 rs1
  | .blte imm rs2 rs1 => readS w imm rs2 rs1
  | .beqz imm rs1 => readS w imm 0 rs1
  | .bltz imm rs1 => readS w imm 0 rs1
  | .bltez imm rs1 => readS w imm 0 rs1
  | .bt imm rs2 rs1 => readS w imm rs2 rs1
  | .bne imm rs2 rs1 => readS w imm rs2 rs1
  | .bgte imm rs2 rs1 => readS w imm rs2 rs1
  | .bgt imm rs2 rs1 => readS w imm rs2 rs1
  | .bnez imm rs1 => readS w imm 0 rs1
  | .bgtez imm rs1 => readS w imm 0 rs1
  | .bgtz imm rs1 => readS w imm 0 rs1
  | .jal imm rs1 rd => readI w imm rs1 rd

/-! ### The shapes of the claims about one instruction: it completes, what it writes, and nothing else -/

/-- An instruction over RS2, RS1, RD completes in every state and writes to RD a value that stands in `rel` to
`x[RS1]` and `x[RS2]`. -/
def resultRRR (mk : Reg → Reg → Reg → Instr) (rel : Word → Word → Word → Prop) : Prop :=
  ∀ (rs2 rs1 rd : Reg) (s : State), ∃ t v, exec (mk rs2 rs1 rd) s = .next t ∧
    rel (s.readReg rs1) (s.readReg rs2) v ∧ writesRegister rd v s t

/-- The same with the sign-extended immediate as the second operand. -/
def resultIRR (mk : Imm → Reg → Reg → Instr) (rel : Word → Word → Word → Prop) : Prop :=
  ∀ (imm : Imm) (rs1 rd : Reg) (s : State), ∃ t v, exec (mk imm rs1 rd) s = .next t ∧
    rel (s.readReg rs1) (imm.signExtend 32) v ∧ writesRegister rd v s t

/-- A result given bit by bit. -/
def bitwise (g : Bool → Bool → Bool) (a b v : Word) : Prop :=
  ∀ k, k < 32 → v.getLsbD k = g (a.getLsbD k) (b.getLsbD k)

/-- A row of the table of 43_cmp_r.md R159: what a condition is for a less, an equal and a greater left side, signed. -/
def orderRow (less equal greater : Bool) (a b : Word) : Bool :=
  if a.toInt < b.toInt then less else if a = b then equal else greater

/-- A comparison's result: the 32-bit 1 or 0 of a row of R159. -/
def compares (less equal greater : Bool) (a b v : Word) : Prop :=
  v = if orderRow less equal greater a b then 1#32 else 0#32

/-- The target of a taken branch: `PC + 4 + (signextension(imm) * 4)` (45_branch.md R190). -/
def takenPc (pc : Word) (imm : Imm) : Word := pc + 4#32 + imm.signExtend 32 * 4#32

/-- A two-register branch completes in every state, writes nothing but `pc`, and is taken by a row of R159. -/
def branchesBy (mk : Imm → Reg → Reg → Instr) (less equal greater : Bool) : Prop :=
  ∀ (imm : Imm) (rs2 rs1 : Reg) (s : State), ∃ t, exec (mk imm rs2 rs1) s = .next t ∧
    writesPcOnly (if orderRow less equal greater (s.readReg rs1) (s.readReg rs2) then takenPc s.pc imm
      else s.pc + 4#32) s t

/-- A compare-with-zero branch completes in every state, writes nothing but `pc`, and is taken by a test of
`x[RS1]`'s sign bit and of its being zero. -/
def branchesOnZero (mk : Imm → Reg → Instr) (test : (sign zero : Bool) → Bool) : Prop :=
  ∀ (imm : Imm) (rs1 : Reg) (s : State), ∃ t, exec (mk imm rs1) s = .next t ∧
    writesPcOnly (if test ((s.readReg rs1).getLsbD 31) (s.readReg rs1 == 0#32) then takenPc s.pc imm
      else s.pc + 4#32) s t

end Sys2Proof.Machine
end

