-- ==== Sys2Proof/Certificates/Slice0/Obligations.lean ====
section
/-! DEFINITION. The statements for the provers, from the numbered rules of spec/. Each docstring names the rule or
section it formalises; where a statement rests on a choice of the spec or of the model it says so. -/

open Sys2Proof Sys2Proof.Machine

/-! ### Encoding and decoding -/

/-- 95_test_vectors.md section 2.1 and 2.2: one listed word of each class, and reserved words, as the decoder reads
them. -/
def Obligations.ListedWordsDecode : Prop :=
  [0x3F000213#32, 0x2B000513#32, 0xFBF0000A#32, 0x09000813#32, 0x08000821#32, 0xDE000213#32, 0x1A000513#32,
      0xC0000321#32, 0xA0000301#32, 0x0100180F#32, 0x00000000#32].map (fun w => (decode w).toOption) =
    [some (.add 2 1 3), some (.subi 5 1 3), some (.mvhi 0xF000 10), some (.lw 8 1 3), some (.sw 8 1 2),
      some (.lt 2 1 3), some (.gtei 5 1 3), some (.beq 3 2 1), some (.bgtz 3 1), some (.jal 0x18 0 15),
      some (.bne 0 0 0)] ∧
  [0xFFFFFFFF#32, 0x02000000#32, 0x4F000213#32, 0xFF000213#32, 0x70000321#32, 0x19000813#32, 0x3F001213#32,
      0xFB000113#32, 0x80000311#32].map (fun w => (decode w).toOption) = List.replicate 9 none

/-- Every instruction, with every operand at every value, is what its encoding decodes to (30_encoding.md R71 to R74,
R77, R82). -/
def Obligations.DecodeInvertsEncode : Prop := ∀ i : Instr, decode (encode i) = .ok i

/-- A word that decodes is the encoding of what it decodes to: no bit of it is ignored (30_encoding.md R77, R84). -/
def Obligations.EncodeInvertsDecode : Prop := ∀ (w : Word) (i : Instr), decode w = .ok i → encode i = w

/-- The decoder, written from the maps of R80 and R81, reads a word as the instruction of a row of R82 exactly when
`w & mask = match` for that row, and reads the operands from the fields that the row's pattern names
(30_encoding.md R82). -/
def Obligations.DecoderAgreesWithTheTable : Prop :=
  ∀ row ∈ opcodeRows, ∀ w : Word,
    (w &&& row.mask = row.value ↔ ∃ i, decode w = .ok i ∧ i.mnemonic = row.mnemonic) ∧
    ∀ i, decode w = .ok i → operandsRead w i

/-- "no word matches two rows" (30_encoding.md R82). -/
def Obligations.NoWordMatchesTwoRows : Prop :=
  opcodeRows.length = 50 ∧
    ∀ w : Word, ∀ r₁ ∈ opcodeRows, ∀ r₂ ∈ opcodeRows, r₁.accepts w = true → r₂.accepts w = true → r₁ = r₂

/-- The reserved words are those of R83 (a) to (g), and of the 256 pairs (fn, opcode) 50 are assigned
(30_encoding.md section 4). -/
def Obligations.ReservedWordsAreThoseListed : Prop :=
  (∀ w : Word, wellFormedWord w = false ↔
    opcodeOf w ∈ [0b0010#4, 0b0011#4, 0b0100#4, 0b0101#4, 0b0110#4, 0b0111#4, 0b1100#4, 0b1101#4] ∨
    (opcodeOf w = 0b1111#4 ∧
      fnOf w ∈ [0b0000#4, 0b0001#4, 0b0100#4, 0b1000#4, 0b1100#4, 0b1101#4, 0b1110#4, 0b1111#4]) ∨
    (opcodeOf w = 0b1011#4 ∧ fnOf w ∈ [0b0000#4, 0b0001#4, 0b0100#4, 0b1000#4, 0b1100#4, 0b1101#4, 0b1110#4]) ∨
    (opcodeOf w ∈ [0b1110#4, 0b1010#4] ∧
      fnOf w ∈ [0b0100#4, 0b0101#4, 0b0110#4, 0b0111#4, 0b1000#4, 0b1001#4, 0b1010#4, 0b1011#4]) ∨
    (opcodeOf w = 0b0000#4 ∧ fnOf w ∈ [0b0111#4, 0b1011#4]) ∨
    (opcodeOf w ∈ [0b1001#4, 0b1000#4, 0b0001#4] ∧ fnOf w ≠ 0b0000#4) ∨
    (opcodeOf w ∈ [0b1111#4, 0b1110#4] ∧ w.extractLsb' 12 12 ≠ 0#12) ∨
    (opcodeOf w = 0b1011#4 ∧ fnOf w = 0b1111#4 ∧ w.extractLsb' 4 4 ≠ 0#4) ∨
    (opcodeOf w = 0b0000#4 ∧ fnOf w ∈ [0b1000#4, 0b1001#4, 0b0110#4, 0b0100#4, 0b0101#4, 0b1010#4] ∧
      w.extractLsb' 4 4 ≠ 0#4)) ∧
  ((List.range 256).filter fun p => wellFormedWord (BitVec.ofNat 32 (p * 2 ^ 24))).length = 50

/-- A reserved word at `pc` stops the step with ReservedEncoding, recording `pc` and the word, and a listed word
never does (30_encoding.md section 4; 92_eei_decisions.md D8, the spec's choice: notes/assumptions/14). -/
def Obligations.ReservedWordFaults : Prop :=
  ∀ (s : State) (w : Word), fetch s.pc s = .ok w →
    (step s = .fault (.reservedEncoding s.pc w) ↔ wellFormedWord w = false)

/-- The all-zero word and every branch with `imm = 0` only go on to the next instruction, taken or not; BF does so
with any operands (30_encoding.md section 4; that BF is never taken is 92_eei_decisions.md D11: notes/assumptions/15). -/
def Obligations.WordsThatOnlyAdvance : Prop :=
  decode 0x00000000#32 = .ok (.bne 0 0 0) ∧
  (∀ (i : Instr) (taken : Bool) (s : State), branchOf i s = some (0, taken) →
    ∃ t, exec i s = .next t ∧ writesPcOnly (s.pc + 4#32) s t) ∧
  ∀ (imm : Imm) (rs2 rs1 : Reg) (s : State),
    ∃ t, exec (.bf imm rs2 rs1) s = .next t ∧ writesPcOnly (s.pc + 4#32) s t

/-! ### Steps and faults -/

/-- When the RAM word at an aligned `pc` in the RAM, not stored to since reset, decodes to an instruction, the step is
that instruction run in that state; `exec` moves `pc` itself (00_scope.md R10). -/
def Obligations.StepRunsTheDecodedInstruction : Prop :=
  ∀ (s : State) (i : Instr), s.pc.toNat % 4 = 0 → s.pc.toNat < 8192 → s.pc.toNat / 4 ∉ s.dirty →
    decode (s.mem.readWord s.pc.toNat) = .ok i → step s = exec i s

/-- What the fetch of a step does at every `pc`, in the order of R273 (20_memory.md section 3; 92_eei_decisions.md D6,
D17, the spec's choices: notes/assumptions/13, 14). -/
def Obligations.FetchFaultsComeFirst : Prop :=
  ∀ s : State,
    if s.pc.toNat % 4 ≠ 0 then step s = .fault (.misalignedFetch s.pc)
    else if 0x1FFC < s.pc.toNat then step s = .fault (.fetchOutsideRam s.pc)
    else if s.pc.toNat / 4 ∈ s.dirty then step s = .fault (.fetchOfModifiedWord s.pc)
    else fetch s.pc s = .ok (s.mem.readWord s.pc.toNat)

/-- A step completes exactly when software has seen to what R305 lists: an aligned `pc` in the RAM, at a word not
stored to, holding a listed instruction, its data access aligned and mapped in its direction
(70_reset_and_hazards.md section 3). -/
def Obligations.StepCompletesExactlyWhenDefined : Prop :=
  ∀ s : State, (∃ t, step s = .next t) ↔ stepDefined s

/-- Every fault a step can answer is one of the six of R272, under its condition and with what it records
(60_exceptions.md section 1; 92_eei_decisions.md D15, the spec's choice: notes/assumptions/14). -/
def Obligations.FaultsAreThoseListed : Prop :=
  ∀ (s : State) (f : Fault), step s = .fault f →
    match f with
    | .misalignedFetch pc => pc = s.pc ∧ pc.toNat % 4 ≠ 0
    | .fetchOutsideRam pc => pc = s.pc ∧ pc.toNat % 4 = 0 ∧ 0x1FFC < pc.toNat
    | .fetchOfModifiedWord pc =>
      pc = s.pc ∧ pc.toNat % 4 = 0 ∧ pc.toNat ≤ 0x1FFC ∧ pc.toNat / 4 ∈ s.dirty
    | .reservedEncoding pc iword => pc = s.pc ∧ fetch pc s = .ok iword ∧ wellFormedWord iword = false
    | .misalignedData pc ea => pc = s.pc ∧ ea.toNat % 4 ≠ 0 ∧ ∃ imm rs1 r,
      (fetchInstr s = .ok (.lw imm rs1 r) ∨ fetchInstr s = .ok (.sw imm rs1 r)) ∧
        ea = s.readReg rs1 + imm.signExtend 32
    | .unmappedAddress pc ea .load => pc = s.pc ∧ ea.toNat % 4 = 0 ∧ loadable ea = false ∧ ∃ imm rs1 rd,
      fetchInstr s = .ok (.lw imm rs1 rd) ∧ ea = s.readReg rs1 + imm.signExtend 32
    | .unmappedAddress pc ea .store => pc = s.pc ∧ ea.toNat % 4 = 0 ∧ storable ea = false ∧ ∃ imm rs1 rs2,
      fetchInstr s = .ok (.sw imm rs1 rs2) ∧ ea = s.readReg rs1 + imm.signExtend 32

/-- Every instruction completes in every state in which its data access, if it makes one, is defined; otherwise it is
LW or SW and faults. None is ever refused (60_exceptions.md R272). -/
def Obligations.InstructionsCompleteExactlyWhenTheirAccessIsDefined : Prop :=
  ∀ (i : Instr) (s : State),
    ((∃ t, exec i s = .next t) ↔ accessDefined i s = true) ∧
    ((∃ f, exec i s = .fault f) ↔ accessDefined i s = false) ∧ ∀ r, exec i s ≠ .refused r

/-- A run whose first `k` states each meet what the spec asks of software (`stepDefined`) answers a state after `k` steps,
and every run that does so is such a run (70_reset_and_hazards.md section 3; 60_exceptions.md section 1). The faults that
the conditions rule out are 92_eei_decisions.md D5, D6, D7, D8, D17, the spec's choices (notes/assumptions/13, 14). -/
def Obligations.SafeRunsComplete : Prop :=
  ∀ (k : Nat) (s : State), runsSafely k s ↔ ∃ t, Host.Core.run core k s = .next t

/-- An instruction word that the host's numbering places at a `pc` that can be fetched from is what the next step
runs (00_scope.md R10; notes/assumptions/16). -/
def Obligations.PlacedWordRunsNext : Prop :=
  ∀ (s : State) (w : Word) (i : Instr), s.pc.toNat % 4 = 0 → s.pc.toNat < 8192 → decode w = .ok i →
    step (s.withFetchWord 32 w.toNat) = exec i (s.withFetchWord 32 w.toNat) ∧
      (s.withFetchWord 32 w.toNat).pc = s.pc ∧ (s.withFetchWord 32 w.toNat).regs = s.regs ∧
      ∀ a, a < s.pc.toNat ∨ s.pc.toNat + 4 ≤ a →
        (s.withFetchWord 32 w.toNat).mem.readByte a = s.mem.readByte a

/-! ### Reset and the image -/

/-- "At reset `pc <- 0x00000040`, and the first step fetches the word at byte address 0x40, which is word 16 of the
memory image" (70_reset_and_hazards.md R300), whatever the start values and the image. -/
def Obligations.ResetStartsAtByteAddress40 : Prop :=
  State.reset.pc = 0x00000040#32 ∧
    fetch State.reset.pc State.reset = .ok (State.reset.mem.readWord 0x40) ∧
    ∀ (v : StartValues) (image : List Word), (boot v image).pc = 0x00000040#32 ∧
      ∀ h : 16 < image.length, fetch (boot v image).pc (boot v image) = .ok image[16]

/-- The image's word `k` is at byte address `4k` when a run starts, no word is marked as stored to, and the start
values are those given (10_state.md section 8; 93_implementation_defined.md G4). A word no image gives reads as
`memFill`, the model's choice (notes/assumptions/3). -/
def Obligations.RunStartsWithTheImage : Prop :=
  ∀ (v : StartValues) (image : List Word),
    (∀ k, k < 2048 → (boot v image).ramWord k = image.getD k 0#32) ∧ (boot v image).dirty = [] ∧
    (boot v image).regs = v.regs ∧ (boot v image).hex = v.hex ∧ (boot v image).ledr = v.ledr

/-- The values the model names where the spec gives none: every register, every RAM byte, `HEX`, `LEDR` and the draw
counter are zero after reset. The model's choice (notes/assumptions/2, 3, 4, 5), not the spec's. -/
def Obligations.ResetValuesTheModelChooses : Prop :=
  (∀ r, State.reset.readReg r = 0#32) ∧ (∀ a, State.reset.mem.readByte a = 0#8) ∧ State.reset.hex = 0#16 ∧
    State.reset.ledr = 0#10 ∧ State.reset.draws = 0 ∧ State.reset = boot StartValues.chosen []

/-- The invariant holds after reset and at the start of a run of any image (10_state.md R32, section 8). -/
def Obligations.InvariantHoldsAtTheStart : Prop :=
  State.reset.inv ∧ ∀ (v : StartValues) (image : List Word), (boot v image).inv

/-- Every step keeps the invariant: the RAM stays in canonical form and inside its 8192 bytes, the written-word bits
stay a rising list of RAM word indices (20_memory.md R41; 10_state.md R32). -/
def Obligations.StepKeepsTheInvariant : Prop :=
  ∀ s t : State, s.inv → step s = .next t → t.inv

/-- Every step keeps every RAM word that no SW has written since reset equal to the image's word, for any image: what
is fetched is the same whether or not the fetch sees stores (20_memory.md section 6; 92_eei_decisions.md D17). -/
def Obligations.StepKeepsUnwrittenWords : Prop :=
  ∀ (image : Nat → Word) (s t : State), codeIntact image s → step s = .next t → codeIntact image t

/-- From the start of a run of any image, every instruction word ever fetched is the image's
(20_memory.md section 6: "behaves identically on both designs"; 92_eei_decisions.md D17: notes/assumptions/13). A word the
image does not give is 0x00000000, the model's choice of `MEM_FILL`, which the spec leaves open (92_eei_decisions.md D18:
notes/assumptions/3). -/
def Obligations.RunsExecuteOnlyTheImage : Prop :=
  ∀ (v : StartValues) (image : List Word) (k : Nat) (t : State) (w : Word),
    Host.Core.run core k (boot v image) = .next t → fetch t.pc t = .ok w →
      w = image.getD (t.pc.toNat / 4) 0#32

/-- A written-word bit is set by a store to that RAM word and by nothing else, and is never cleared
(10_state.md R32). -/
def Obligations.WrittenBitsFollowStores : Prop :=
  ∀ (i : Instr) (s t : State), exec i s = .next t → ∀ k, k ∈ t.dirty ↔ k ∈ s.dirty ∨
    ∃ imm rs1 rs2, i = .sw imm rs1 rs2 ∧ (s.readReg rs1 + imm.signExtend 32).toNat < 8192 ∧
      k = (s.readReg rs1 + imm.signExtend 32).toNat / 4

/-- A RAM word an SW has written cannot be fetched as long as its bit is set, and can be loaded: LW of it gives the
stored value (20_memory.md sections 3 and 6; 92_eei_decisions.md D17, the spec's choice: notes/assumptions/13). -/
def Obligations.StoredWordIsDataOnly : Prop :=
  ∀ (imm : Imm) (rs1 rs2 : Reg) (s t : State), exec (.sw imm rs1 rs2) s = .next t →
    (s.readReg rs1 + imm.signExtend 32).toNat < 8192 →
      (∀ u : State, (∀ k ∈ t.dirty, k ∈ u.dirty) → u.pc = s.readReg rs1 + imm.signExtend 32 →
        step u = .fault (.fetchOfModifiedWord u.pc)) ∧
      ∀ (imm' : Imm) (rs1' rd : Reg), t.readReg rs1' + imm'.signExtend 32 = s.readReg rs1 + imm.signExtend 32 →
        ∃ u, exec (.lw imm' rs1' rd) t = .next u ∧ writesRegister rd (s.readReg rs2) t u

/-! ### ALU -/

/-- ADD and SUB, modulo 2^32, the same bits whether the operands are read as unsigned or signed; SUB subtracts
`x[RS2]` from `x[RS1]`. Each completes in every state and writes RD and `pc` alone (40_alu_r.md section 2; the meaning
of the names is 93_implementation_defined.md G2: notes/assumptions/25). -/
def Obligations.AluRegisterArithmetic : Prop :=
  resultRRR .add (fun a b v =>
    v.toNat = (a.toNat + b.toNat) % 2 ^ 32 ∧ v = BitVec.ofInt 32 (a.toInt + b.toInt)) ∧
  resultRRR .sub (fun a b v =>
    (v.toNat + b.toNat) % 2 ^ 32 = a.toNat ∧ v = BitVec.ofInt 32 (a.toInt - b.toInt))

/-- AND, OR, XOR, NAND, NOR, XNOR bit by bit over all 32 bits (40_alu_r.md section 2;
93_implementation_defined.md G2: notes/assumptions/25). -/
def Obligations.AluRegisterLogic : Prop :=
  resultRRR .and (bitwise fun a b => a && b) ∧ resultRRR .or (bitwise fun a b => a || b) ∧
  resultRRR .xor (bitwise fun a b => a != b) ∧ resultRRR .nand (bitwise fun a b => !(a && b)) ∧
  resultRRR .nor (bitwise fun a b => !(a || b)) ∧ resultRRR .xnor (bitwise fun a b => a == b)

/-- ADDI and SUBI with the sign-extended immediate (41_alu_i.md section 2; 93_implementation_defined.md G2:
notes/assumptions/25). -/
def Obligations.AluImmediateArithmetic : Prop :=
  resultIRR .addi (fun a b v =>
    v.toNat = (a.toNat + b.toNat) % 2 ^ 32 ∧ v = BitVec.ofInt 32 (a.toInt + b.toInt)) ∧
  resultIRR .subi (fun a b v =>
    (v.toNat + b.toNat) % 2 ^ 32 = a.toNat ∧ v = BitVec.ofInt 32 (a.toInt - b.toInt))

/-- ANDI, ORI, XORI, NANDI, NORI, XNORI with the sign-extended immediate, the upper half included
(41_alu_i.md section 2; 93_implementation_defined.md G2: notes/assumptions/25). -/
def Obligations.AluImmediateLogic : Prop :=
  resultIRR .andi (bitwise fun a b => a && b) ∧ resultIRR .ori (bitwise fun a b => a || b) ∧
  resultIRR .xori (bitwise fun a b => a != b) ∧ resultIRR .nandi (bitwise fun a b => !(a && b)) ∧
  resultIRR .nori (bitwise fun a b => !(a || b)) ∧ resultIRR .xnori (bitwise fun a b => a == b)

/-- What the immediate becomes: sign-extended, its bits 31:16 copies of bit 15, and scaled by 4, its bits 31:18 copies
of bit 15 and its bits 1:0 zero (30_encoding.md section 2). -/
def Obligations.ImmediateExtension : Prop :=
  ∀ imm : Imm,
    (∀ k, k < 16 → (sext32 imm).getLsbD k = imm.getLsbD k) ∧
    (∀ k, 16 ≤ k → k < 32 → (sext32 imm).getLsbD k = imm.getLsbD 15) ∧
    (∀ k, 18 ≤ k → k < 32 → (scaledImm imm).getLsbD k = imm.getLsbD 15) ∧
    (∀ k, 2 ≤ k → k < 18 → (scaledImm imm).getLsbD k = imm.getLsbD (k - 2)) ∧
    (∀ k, k < 2 → (scaledImm imm).getLsbD k = false) ∧
    (scaledImm imm).toInt = 4 * imm.toInt ∧ -131072 ≤ (scaledImm imm).toInt ∧ (scaledImm imm).toInt ≤ 131068

/-- MVHI puts the immediate in bits 31:16 of RD, clears bits 15:0, and writes nothing else but `pc`. The cleared low
half is the spec's choice, 92_eei_decisions.md D13 (notes/assumptions/7). -/
def Obligations.MvhiLoadsTheHighHalf : Prop :=
  ∀ (imm : Imm) (rd : Reg) (s : State), ∃ t v, exec (.mvhi imm rd) s = .next t ∧
    v.toNat = imm.toNat * 65536 ∧ writesRegister rd v s t

/-- How a program makes any 32-bit constant: MVHI then ORI when bit 15 is clear, else MVHI of the high half plus one
then ADDI (41_alu_i.md section 3, on 92_eei_decisions.md D13: notes/assumptions/7; the meaning of ORI and ADDI is
93_implementation_defined.md G2: notes/assumptions/25). -/
def Obligations.ConstantsCanBeBuilt : Prop :=
  ∀ (K : Word) (rd : Reg) (s : State),
    (K.getLsbD 15 = false → ∃ t,
      execAll [.mvhi (K.extractLsb' 16 16) rd, .ori (K.extractLsb' 0 16) rd rd] s = .next t ∧ t.readReg rd = K) ∧
    (K.getLsbD 15 = true → ∃ t,
      execAll [.mvhi (K.extractLsb' 16 16 + 1#16) rd, .addi (K.extractLsb' 0 16) rd rd] s = .next t ∧
        t.readReg rd = K)

/-! ### Load and store -/

/-- LW: its word of format I, and what it does at every effective address `x[RS1] + sext_32(imm)`: the RAM word, a
KEY or switch reading over zeros, or the fault with nothing written (42_load_store.md section 2). RD may be RS1. The
faults are 92_eei_decisions.md D5 and D7, the spec's choice (notes/assumptions/14). -/
def Obligations.LoadWord : Prop :=
  ∀ (imm : Imm) (rs1 rd : Reg) (s : State),
    decode (0b0000#4 ++ 0b1001#4 ++ imm ++ BitVec.ofFin (w := 4) rs1 ++ BitVec.ofFin (w := 4) rd) =
      .ok (.lw imm rs1 rd) ∧
    (∀ fn : BitVec 4, fn ≠ 0b0000#4 → ∃ r,
      decode (fn ++ 0b1001#4 ++ imm ++ BitVec.ofFin (w := 4) rs1 ++ BitVec.ofFin (w := 4) rd) = .error r) ∧
    let ea := s.readReg rs1 + imm.signExtend 32
    if ea.toNat % 4 ≠ 0 then exec (.lw imm rs1 rd) s = .fault (.misalignedData s.pc ea)
    else if ea.toNat ≤ 0x1FFC then
      ∃ t, exec (.lw imm rs1 rd) s = .next t ∧ writesRegister rd (s.mem.readWord ea.toNat) s t
    else if ea = 0xF0000010#32 then
      ∃ t, exec (.lw imm rs1 rd) s = .next t ∧ t.draws = s.draws + 1 ∧
        writesRegister rd ((Config.keyDraw s.draws).setWidth 32) s { t with draws := s.draws }
    else if ea = 0xF0000014#32 then
      ∃ t, exec (.lw imm rs1 rd) s = .next t ∧ t.draws = s.draws + 1 ∧
        writesRegister rd ((Config.switchDraw s.draws).setWidth 32) s { t with draws := s.draws }
    else exec (.lw imm rs1 rd) s = .fault (.unmappedAddress s.pc ea .load)

/-- SW: its word of format S, base in bits 3:0, and what it does at every effective address: all 32 bits of the RAM
word replaced and the word marked, `HEX <- v[15:0]`, `LEDR <- v[9:0]`, or the fault with nothing written
(42_load_store.md section 2; 20_memory.md section 3). It writes no register; RS2 may be RS1. The faults, the field
positions and the ignored upper bits are 92_eei_decisions.md D5, D7, D22 and 90_conflicts.md C3
(notes/assumptions/6, 11, 14). -/
def Obligations.StoreWord : Prop :=
  ∀ (imm : Imm) (rs1 rs2 : Reg) (s : State),
    decode (0b0000#4 ++ 0b1000#4 ++ imm ++ BitVec.ofFin (w := 4) rs2 ++ BitVec.ofFin (w := 4) rs1) =
      .ok (.sw imm rs1 rs2) ∧
    (∀ fn : BitVec 4, fn ≠ 0b0000#4 → ∃ r,
      decode (fn ++ 0b1000#4 ++ imm ++ BitVec.ofFin (w := 4) rs2 ++ BitVec.ofFin (w := 4) rs1) = .error r) ∧
    let ea := s.readReg rs1 + imm.signExtend 32
    let v := s.readReg rs2
    if ea.toNat % 4 ≠ 0 then exec (.sw imm rs1 rs2) s = .fault (.misalignedData s.pc ea)
    else if ea.toNat ≤ 0x1FFC then
      ∃ t, exec (.sw imm rs1 rs2) s = .next t ∧ t.pc = s.pc + 4#32 ∧ sameRegisters s t ∧
        t.mem.readWord ea.toNat = v ∧
        (∀ a, a < ea.toNat ∨ ea.toNat + 4 ≤ a → t.mem.readByte a = s.mem.readByte a) ∧
        (∀ k, k ∈ t.dirty ↔ k = ea.toNat / 4 ∨ k ∈ s.dirty) ∧
        t.hex = s.hex ∧ t.ledr = s.ledr ∧ t.draws = s.draws
    else if ea = 0xF0000000#32 then
      ∃ t, exec (.sw imm rs1 rs2) s = .next t ∧ t.hex.toNat = v.toNat % 2 ^ 16 ∧
        writesPcOnly (s.pc + 4#32) s { t with hex := s.hex }
    else if ea = 0xF0000004#32 then
      ∃ t, exec (.sw imm rs1 rs2) s = .next t ∧ t.ledr.toNat = v.toNat % 2 ^ 10 ∧
        writesPcOnly (s.pc + 4#32) s { t with ledr := s.ledr }
    else exec (.sw imm rs1 rs2) s = .fault (.unmappedAddress s.pc ea .store)

/-- A load of an input gives zeros above its bits, whatever the draw (20_memory.md section 2). The draws are free
values: `Config.keyDraw`, `Config.switchDraw` (notes/assumptions/5). -/
def Obligations.InputReadingsHaveZeroUpperBits : Prop :=
  ∀ (imm : Imm) (rs1 rd : Reg) (s t : State), exec (.lw imm rs1 rd) s = .next t →
    (s.readReg rs1 + imm.signExtend 32 = 0xF0000010#32 → ∀ k, 4 ≤ k → (t.readReg rd).getLsbD k = false) ∧
    (s.readReg rs1 + imm.signExtend 32 = 0xF0000014#32 → ∀ k, 10 ≤ k → (t.readReg rd).getLsbD k = false)

/-- What the board shows: after every instruction `HEX` and `LEDR` are what the instruction's store event shows, or
what they were; the display's digits are `HEX`'s four hexadecimal digits, most significant first
(20_memory.md section 2; 60_exceptions.md section 6). The upper bits of a stored value are dropped by the spec's choice
92_eei_decisions.md D22 (notes/assumptions/6); the event as a function of the instruction and its state is the model's
choice (notes/assumptions/23); the order of the digits is derived by the spec (notes/assumptions/22). -/
def Obligations.OutputsFollowStoreEvents : Prop :=
  (∀ (i : Instr) (s t : State), exec i s = .next t →
    match outputEvent i s with
    | some (.hex shown) => t.hex = shown ∧ t.ledr = s.ledr
    | some (.ledr shown) => t.ledr = shown ∧ t.hex = s.hex
    | none => t.hex = s.hex ∧ t.ledr = s.ledr) ∧
  ∀ s : State, (hexDigits s).foldl (fun n d => 16 * n + d.toNat) 0 = s.hex.toNat

/-- No instruction but SW changes the RAM, a device latch or a written-word bit (20_memory.md R40: LW and SW are the only
instructions that access memory as data), and no instruction, SW and an LW from the RAM included, moves the draw counter
but an LW whose address is KEY's or the switches'. The counter is the model's own field (notes/assumptions/5). -/
def Obligations.OnlyStoresChangeMemoryAndDevices : Prop :=
  ∀ (i : Instr) (s t : State), exec i s = .next t →
    ((∀ imm rs1 rs2, i ≠ .sw imm rs1 rs2) →
      (∀ a, t.mem.readByte a = s.mem.readByte a) ∧ t.hex = s.hex ∧ t.ledr = s.ledr ∧ t.dirty = s.dirty) ∧
    ((∀ imm rs1 rd, i = .lw imm rs1 rd → s.readReg rs1 + imm.signExtend 32 ≠ 0xF0000010#32 ∧
      s.readReg rs1 + imm.signExtend 32 ≠ 0xF0000014#32) → t.draws = s.draws)

/-! ### Compare -/

/-- The eight CMP-R instructions by the table of R159, order comparisons signed (43_cmp_r.md sections 2 and 3; signed
is 92_eei_decisions.md D10: notes/assumptions/8; F and T are D11: notes/assumptions/15). -/
def Obligations.CompareRegisters : Prop :=
  resultRRR .f (compares false false false) ∧ resultRRR .eq (compares false true false) ∧
  resultRRR .lt (compares true false false) ∧ resultRRR .lte (compares true true false) ∧
  resultRRR .t (compares true true true) ∧ resultRRR .ne (compares true false true) ∧
  resultRRR .gte (compares false true true) ∧ resultRRR .gt (compares false false true)

/-- The eight CMP-I instructions by the same table, the sign-extended immediate on the right (44_cmp_i.md section 2;
92_eei_decisions.md D10, D11: notes/assumptions/8, 15). -/
def Obligations.CompareImmediate : Prop :=
  resultIRR .fi (compares false false false) ∧ resultIRR .eqi (compares false true false) ∧
  resultIRR .lti (compares true false false) ∧ resultIRR .ltei (compares true true false) ∧
  resultIRR .ti (compares true true true) ∧ resultIRR .nei (compares true false true) ∧
  resultIRR .gtei (compares false true true) ∧ resultIRR .gti (compares false false true)

/-! ### Control flow -/

/-- The eight two-register branches: taken by the table of R159, nothing but `pc` written (45_branch.md sections 2 and
3; 92_eei_decisions.md D10, D11: notes/assumptions/8, 15). -/
def Obligations.BranchesOnTwoRegisters : Prop :=
  branchesBy .bf false false false ∧ branchesBy .beq false true false ∧ branchesBy .blt true false false ∧
  branchesBy .blte true true false ∧ branchesBy .bt true true true ∧ branchesBy .bne true false true ∧
  branchesBy .bgte false true true ∧ branchesBy .bgt false false true

/-- The six compare-with-zero branches, by the sign bit and zero test of `x[RS1]`, R0 not read (45_branch.md sections
1 and 2; the constant zero is 92_eei_decisions.md D12: notes/assumptions/9). -/
def Obligations.BranchesOnZero : Prop :=
  branchesOnZero .beqz (fun _ zero => zero) ∧ branchesOnZero .bltz (fun sign _ => sign) ∧
  branchesOnZero .bltez (fun sign zero => sign || zero) ∧ branchesOnZero .bnez (fun _ zero => !zero) ∧
  branchesOnZero .bgtez (fun sign _ => !sign) ∧ branchesOnZero .bgtz (fun sign zero => !sign && !zero)

/-- Branch targets: a multiple of 4 from a multiple of 4, the next instruction for `imm = 0`, the branch itself for
0xFFFF and for no other immediate, the instruction before for 0xFFFE (45_branch.md section 1). -/
def Obligations.BranchTargets : Prop :=
  ∀ (pc : Word) (imm : Imm),
    branchTarget pc imm = pc + 4#32 + BitVec.ofInt 32 (4 * imm.toInt) ∧
    (pc.toNat % 4 = 0 → (branchTarget pc imm).toNat % 4 = 0) ∧
    branchTarget pc 0x0000#16 = pc + 4#32 ∧ branchTarget pc 0xFFFE#16 = pc - 4#32 ∧
    (branchTarget pc imm = pc ↔ imm = 0xFFFF#16)

/-- JAL: the link in RD, the jump to `x[RS1] + 4 * signextension(imm)` of the old `x[RS1]`, nothing else written; it
completes in every state, whatever the target (46_jal.md; RD = RS1 is 92_eei_decisions.md D14:
notes/assumptions/10). -/
def Obligations.JumpAndLink : Prop :=
  ∀ (imm : Imm) (rs1 rd : Reg) (s : State), ∃ t, exec (.jal imm rs1 rd) s = .next t ∧
    t.pc = s.readReg rs1 + imm.signExtend 32 * 4#32 ∧ t.readReg rd = s.pc + 4#32 ∧
    sameRegistersBut rd s t ∧ sameMemoryAndDevices s t

/-- `pc` after every instruction: the target of a taken branch, the target of a JAL, else `pc + 4`
(10_state.md section 3; 45_branch.md sections 1 to 3; 46_jal.md). When a branch is taken rests on 92_eei_decisions.md D10
(signed), D11 (BF, BT) and D12 (constant zero), and a JAL with RD = RS1 on D14: notes/assumptions/8, 15, 9, 10. -/
def Obligations.ProgramCounterAfterEachInstruction : Prop :=
  ∀ (i : Instr) (s t : State), exec i s = .next t →
    (∀ imm, branchOf i s = some (imm, true) → t.pc = takenPc s.pc imm) ∧
    (∀ imm rs1 rd, i = .jal imm rs1 rd → t.pc = s.readReg rs1 + imm.signExtend 32 * 4#32) ∧
    ((∀ imm, branchOf i s ≠ some (imm, true)) → (∀ imm rs1 rd, i ≠ .jal imm rs1 rd) → t.pc = s.pc + 4#32)

/-- Only JAL can leave an aligned `pc` misaligned (10_state.md section 3). -/
def Obligations.OnlyJalMisalignsTheProgramCounter : Prop :=
  ∀ (i : Instr) (s t : State), exec i s = .next t → s.pc.toNat % 4 = 0 →
    t.pc.toNat % 4 = 0 ∨ ∃ imm rs1 rd, i = .jal imm rs1 rd ∧ (s.readReg rs1).toNat % 4 ≠ 0

/-- JAL does not check its target: a misaligned or outside one faults at the next fetch, after RD has been written
(10_state.md section 3, 46_jal.md; 92_eei_decisions.md D6: notes/assumptions/14). -/
def Obligations.BadJumpFaultsAtTheNextFetch : Prop :=
  ∀ (imm : Imm) (rs1 rd : Reg) (s t : State), exec (.jal imm rs1 rd) s = .next t →
    t.readReg rd = s.pc + 4#32 ∧
    (t.pc.toNat % 4 ≠ 0 → step t = .fault (.misalignedFetch t.pc)) ∧
    (t.pc.toNat % 4 = 0 → 0x2000 ≤ t.pc.toNat → step t = .fault (.fetchOutsideRam t.pc))

/-- The ends of runs: a state is the same after a step exactly when it runs a taken branch with `imm = 0xFFFF`, or a
JAL whose target is its own address and whose RD already holds `pc + 4`; and then it is the same in every field
(70_reset_and_hazards.md section 5; 45_branch.md sections 1 to 3; 46_jal.md). The end of a run is 92_eei_decisions.md D19
(notes/assumptions/24); when a branch is taken rests on D10, D11 and D12, and a JAL with RD = RS1 on D14:
notes/assumptions/8, 15, 9, 10. -/
def Obligations.EndsOfRunsAreSelfLoops : Prop :=
  ∀ s : State,
    (endState s ↔ ∃ i, fetchInstr s = .ok i ∧
      (branchOf i s = some (0xFFFF#16, true) ∨
        ∃ imm rs1 rd, i = .jal imm rs1 rd ∧ s.readReg rs1 + imm.signExtend 32 * 4#32 = s.pc ∧
          s.readReg rd = s.pc + 4#32)) ∧
    (endState s → step s = .next s)

/-! ### Registers -/

/-- No instruction writes a register but the one its RD field names; any register can be that one
(10_state.md section 2). -/
def Obligations.OnlyTheNamedRegisterIsWritten : Prop :=
  ∀ (i : Instr) (s t : State), exec i s = .next t → ∀ r, destination i ≠ some r → t.readReg r = s.readReg r

/-- No instruction reads a register but those its RS1 and RS2 fields name, and F, T, FI, TI, BF, BT and MVHI read
none: two states that agree on those registers and on all else but the other registers do the same
(10_state.md section 2; 92_eei_decisions.md D11, D12, D13: notes/assumptions/7, 9, 15). -/
def Obligations.OnlyTheNamedRegistersAreRead : Prop :=
  ∀ (i : Instr) (s : State) (regs : Vector Word 16), (∀ r ∈ sources i, s.regs[r] = regs[r]) →
    (∀ f, exec i s = .fault f → exec i { s with regs := regs } = .fault f) ∧
    ∀ t, exec i s = .next t → ∃ u, exec i { s with regs := regs } = .next u ∧
      { u with regs := t.regs } = t ∧ ∀ rd, destination i = some rd → u.readReg rd = t.readReg rd

/-- Pushing a register and popping it into another by the software convention: the value arrives and SP is back, for
any SP whose slot below is in the RAM (42_load_store.md section 3; 10_state.md section 2). The meaning of SUBI and ADDI is
93_implementation_defined.md G2 (notes/assumptions/25). -/
def Obligations.PushThenPop : Prop :=
  ∀ (rk rj : Reg) (s : State), rk ≠ 14 → rj ≠ 14 → (s.readReg 14).toNat % 4 = 0 →
    4 ≤ (s.readReg 14).toNat → (s.readReg 14).toNat ≤ 0x2000 →
      ∃ t, execAll [.subi 4 14 14, .sw 0 14 rk, .lw 0 14 rj, .addi 4 14 14] s = .next t ∧
        t.readReg rj = s.readReg rk ∧ t.readReg 14 = s.readReg 14 ∧ t.pc = s.pc + 16#32

/-! ### Pseudo-instructions and the assembler -/

/-- NOT is `NAND RS,RS,RD`, one word, and complements every bit; CALL is `JAL imm(RS1),RA`, one word, and links in
R15; with the example words of each (47_pseudo_and_assembler.md section 1). The jump of `CALL imm(R15)` by the old R15 is
92_eei_decisions.md D14 (notes/assumptions/10); NAND's meaning is 93_implementation_defined.md G2
(notes/assumptions/25). -/
def Obligations.NotAndCall : Prop :=
  (∀ (rs rd : Reg) (s : State), ∃ t v, Pseudo.expand (.not rs rd) = [.nand rs rs rd] ∧
    execAll (Pseudo.expand (.not rs rd)) s = .next t ∧
    (∀ k, k < 32 → v.getLsbD k = !(s.readReg rs).getLsbD k) ∧ writesRegister rd v s t) ∧
  (∀ (imm : Imm) (rs1 : Reg) (s : State), ∃ t, Pseudo.expand (.call imm rs1) = [.jal imm rs1 15] ∧
    execAll (Pseudo.expand (.call imm rs1)) s = .next t ∧
    t.pc = s.readReg rs1 + imm.signExtend 32 * 4#32 ∧ t.readReg 15 = s.pc + 4#32 ∧
    sameRegistersBut 15 s t ∧ sameMemoryAndDevices s t) ∧
  (Pseudo.expand (.not 1 3)).map encode = [0xBF000113#32] ∧
  (Pseudo.expand (.call 0x16 12)).map encode = [0x010016CF#32]

/-- B is always taken and writes nothing, RET and JMP link in R9, each in one word that completes in every state. RET
and JMP are the spec's own supply (47_pseudo_and_assembler.md section 1; 92_eei_decisions.md D26:
notes/assumptions/20). The jump of `JMP imm(R9)` by the old R9 is 92_eei_decisions.md D14 (notes/assumptions/10). -/
def Obligations.UnconditionalJumps : Prop :=
  (∀ (imm : Imm) (s : State), ∃ t, execAll (Pseudo.expand (.b imm)) s = .next t ∧
    writesPcOnly (takenPc s.pc imm) s t) ∧
  (∀ s : State, ∃ t, execAll (Pseudo.expand .ret) s = .next t ∧ t.pc = s.readReg 15 ∧
    t.readReg 9 = s.pc + 4#32 ∧ sameRegistersBut 9 s t ∧ sameMemoryAndDevices s t) ∧
  (∀ (imm : Imm) (rs1 : Reg) (s : State), ∃ t, execAll (Pseudo.expand (.jmp imm rs1)) s = .next t ∧
    t.pc = s.readReg rs1 + imm.signExtend 32 * 4#32 ∧ t.readReg 9 = s.pc + 4#32 ∧
    sameRegistersBut 9 s t ∧ sameMemoryAndDevices s t)

/-- BLE and BGE: R6 gets the signed comparison and the branch, the second word, is taken when it holds; nothing else
is written (47_pseudo_and_assembler.md section 1; 90_conflicts.md C6). The signed comparison is 92_eei_decisions.md D10
(notes/assumptions/8); that BNEZ tests R6 against the constant zero, whatever R0 holds, is D12 (notes/assumptions/9); the
meaning of LTE, GTE and NE is 93_implementation_defined.md G2 (notes/assumptions/25). -/
def Obligations.BleAndBge : Prop :=
  ∀ (imm : Imm) (rs2 rs1 : Reg) (s : State),
    (∃ t, execAll (Pseudo.expand (.ble imm rs2 rs1)) s = .next t ∧
      t.readReg 6 = (if (s.readReg rs1).toInt ≤ (s.readReg rs2).toInt then 1#32 else 0#32) ∧
      t.pc = (if (s.readReg rs1).toInt ≤ (s.readReg rs2).toInt then takenPc (s.pc + 4#32) imm else s.pc + 8#32) ∧
      sameRegistersBut 6 s t ∧ sameMemoryAndDevices s t) ∧
    (∃ t, execAll (Pseudo.expand (.bge imm rs2 rs1)) s = .next t ∧
      t.readReg 6 = (if (s.readReg rs1).toInt ≥ (s.readReg rs2).toInt then 1#32 else 0#32) ∧
      t.pc = (if (s.readReg rs1).toInt ≥ (s.readReg rs2).toInt then takenPc (s.pc + 4#32) imm else s.pc + 8#32) ∧
      sameRegistersBut 6 s t ∧ sameMemoryAndDevices s t)

/-- The field the assembler stores for a label in a branch makes the branch reach the label, and every aligned label
of the RAM can be reached from every aligned address of it (47_pseudo_and_assembler.md section 2; 90_conflicts.md C5;
92_eei_decisions.md D24: notes/assumptions/27). -/
def Obligations.BranchFieldReachesItsLabel : Prop :=
  (∀ (target pc : Int) (field : Imm), branchField target pc = .ok field →
    branchTarget (BitVec.ofInt 32 pc) field = BitVec.ofInt 32 target) ∧
  ∀ j k : Nat, j < 2048 → k < 2048 → ∃ field, branchField (4 * j) (4 * k) = .ok field

/-- With the default rule and a base register of zero, JAL to a label of the RAM reaches it; with the literal rule the
field is the label's low 16 bits (47_pseudo_and_assembler.md section 2; 90_conflicts.md C7; 92_eei_decisions.md D25:
notes/assumptions/20). -/
def Obligations.JalFieldReachesItsLabel : Prop :=
  (∀ (k : Nat) (rs1 : Reg) (s : State), k < 2048 → s.readReg rs1 = 0#32 →
    jalTarget s rs1 (jalField jalLabelDefault (4 * k)) = BitVec.ofNat 32 (4 * k)) ∧
  ∀ k : Nat, k < 8192 → (jalField .literal k).toNat = k

/-- A numeric immediate is accepted exactly from -32768 to 65535 and its field is its low 16 bits: a negative number
and its two's complement give the same field (47_pseudo_and_assembler.md section 2; 92_eei_decisions.md D27:
notes/assumptions/27). -/
def Obligations.NumericImmediates : Prop :=
  ∀ n : Int,
    ((∃ field, numberField n = .ok field) ↔ -32768 ≤ n ∧ n ≤ 65535) ∧
    ∀ field, numberField n = .ok field → (field.toNat : Int) = n % 65536

/-- "it must output a MIF file with 2048 32-bit words of memory": every image the assembler outputs has 2048 words,
each the program's where it places one and the fill elsewhere (47_pseudo_and_assembler.md R250). -/
def Obligations.AssembledImageHas2048Words : Prop :=
  ∀ (jalRule : JalLabelRule) (fill : Word) (program : List Line) (image : List Word),
    assemble jalRule fill program = .ok image → image.length = 2048 ∧
      ∃ placed, assembleWords jalRule program = .ok placed ∧
        (∀ k w, (k, w) ∈ placed → image[k]? = some w) ∧
        ∀ k, k < 2048 → (∀ w, (k, w) ∉ placed) → image[k]? = some fill

/-- The register names of R21, every one in upper and in lower case; each name of a register is a reserved word
(10_state.md section 2; 47_pseudo_and_assembler.md section 2). -/
def Obligations.RegisterNames : Prop :=
  (["R0", "R1", "R2", "R3", "R4", "R5", "R6", "R7", "R8", "R9", "R10", "R11", "R12", "R13", "R14", "R15"].map
    fun n => (registerOf n).toOption) = (List.finRange 16).map some ∧
  (["r0", "r1", "r2", "r3", "r4", "r5", "r6", "r7", "r8", "r9", "r10", "r11", "r12", "r13", "r14", "r15"].map
    fun n => (registerOf n).toOption) = (List.finRange 16).map some ∧
  (["A0", "A1", "A2", "A3", "RV", "T0", "T1", "S0", "S1", "S2", "GP", "FP", "SP", "RA"].map
    fun n => (registerOf n).toOption) = ([0, 1, 2, 3, 3, 4, 5, 6, 7, 8, 12, 13, 14, 15] : List Reg).map some ∧
  (["a0", "a1", "a2", "a3", "rv", "t0", "t1", "s0", "s1", "s2", "gp", "fp", "sp", "ra"].map
    fun n => (registerOf n).toOption) = ([0, 1, 2, 3, 3, 4, 5, 6, 7, 8, 12, 13, 14, 15] : List Reg).map some ∧
  ∀ name, (∃ r, registerOf name = .ok r) → reservedWord name = true

/-- The value of a `.WORD`, a number or a label's, is accepted exactly from -2^31 to 2^32 - 1, and the word is its low 32
bits; any other value is refused (47_pseudo_and_assembler.md sections 2 and 3; 92_eei_decisions.md D27:
notes/assumptions/27). -/
def Obligations.WordDirectiveValues : Prop :=
  ∀ (syms : Symbols) (text : String) (v : Int),
    (startsNumber text.toList = true ∧ numberOf text = .ok v) ∨
      (startsNumber text.toList = false ∧ valueOf syms text = .ok v) →
    if -2147483648 ≤ v ∧ v ≤ 4294967295 then ∃ w, wordOf syms text = .ok w ∧ (w.toNat : Int) = v % 4294967296
    else wordOf syms text = .error (.outOfRange v)

/-- A label spelled like a mnemonic, a pseudo-instruction mnemonic or a register name, in any letter case, is refused; and
no other name is reserved (47_pseudo_and_assembler.md section 2; 93_implementation_defined.md section 1). -/
def Obligations.ReservedWordsAreRefusedInAnyLetterCase : Prop :=
  ∀ (syms : Symbols) (name : String) (value : Int),
    addSymbol syms name value = .error (.reservedLabel name) ↔
      (∃ e ∈ entries, name.toList.map Char.toLower = e.upper.toList.map Char.toLower) ∨
      ∃ r ∈ registerNames, name.toList.map Char.toLower = r.1.toList.map Char.toLower
end

