-- ==== Sys2Proof/Laws/Assembler.lean ====
section
/-! SUPPORT. What the assembler's shared checks let through, each said once. -/

namespace Sys2Proof.Machine

/-- A name is reserved exactly when it spells a mnemonic or a register name, letter case aside (R241). -/
theorem reservedWord_iff (name : String) :
    reservedWord name = true ↔
      (∃ e ∈ entries, lowerCase e.upper = lowerCase name) ∨ ∃ r ∈ registerNames, lowerCase r.1 = lowerCase name := by
  simp [reservedWord]

/-- The two spellings of a register name are one name, letter case aside. -/
theorem registerNames_lowerCase : ∀ r ∈ registerNames, lowerCase r.2.1 = lowerCase r.1 := by decide

/-- Everything a name that stands for a register can be (10_state.md R21). -/
theorem registerOf_ok {name : String} {r : Reg} (h : registerOf name = .ok r) :
    ∃ u l, (u, l, r) ∈ registerNames ∧ (name = u ∨ name = l) := by
  unfold registerOf at h
  split at h
  · rename_i p hp
    cases h
    refine ⟨p.1, p.2.1, List.mem_of_find?_eq_some hp, ?_⟩
    have h := List.find?_some hp
    rw [Bool.or_eq_true, beq_iff_eq, beq_iff_eq] at h
    exact h.imp Eq.symm Eq.symm
  · cases h

/-- Everything a symbol that is accepted can be (R241). -/
theorem addSymbol_ok {syms syms' : Symbols} {name : String} {value : Int}
    (h : addSymbol syms name value = .ok syms') :
    reservedWord name = false ∧ (∀ v, (name, v) ∉ syms) ∧ syms' = (name, value) :: syms := by
  unfold addSymbol at h
  split at h
  · cases h
  · split at h
    · cases h
    · rename_i hr hd
      cases h
      exact ⟨by simpa using hr, by simpa using hd, rfl⟩

/-- Everything a word that is placed can be (R247). -/
theorem placeWord_ok {placed placed' : Placed} {addr : Int} {w : Word}
    (h : placeWord placed addr w = .ok placed') :
    addr % 4 = 0 ∧ 0 ≤ addr ∧ addr < ramBytes ∧ (∀ v, ((addr / 4).toNat, v) ∉ placed) ∧
      placed' = ((addr / 4).toNat, w) :: placed := by
  unfold placeWord at h
  split at h
  · rename_i hr
    split at h
    · cases h
    · rename_i hd
      cases h
      exact ⟨hr.1, hr.2.1, hr.2.2, by simpa using hd, rfl⟩
  · cases h

end Sys2Proof.Machine
end

