-- ==== Sys2Proof/Laws/Memory.lean ====
section
/-! SUPPORT. Laws of the RAM: a read after a write, and that every operation keeps the canonical form. None of the
read laws needs the canonical form. -/

namespace Sys2Proof

theorem wordOfBytes_bytes (w : Word) :
    wordOfBytes (byteOfWord w 0) (byteOfWord w 1) (byteOfWord w 2) (byteOfWord w 3) = w := by
  apply BitVec.eq_of_getLsbD_eq
  intro i hi
  simp only [wordOfBytes, byteOfWord, BitVec.getLsbD_append, BitVec.getLsbD_extractLsb']
  interval_cases i <;> simp

namespace Machine

/-! ### Bytes -/

theorem Memory.readByte_erase (m : Memory) (a a' : Nat) :
    (m.erase a).readByte a' = if a' = a then memFill else m.readByte a' := by
  induction m with
  | nil => simp [Memory.erase, Memory.readByte]
  | cons c m ih =>
    simp only [Memory.erase] at ih
    by_cases hc : c.1 = a
    · simp only [Memory.erase, List.filter_cons, hc, bne_self_eq_false, Memory.readByte]
      by_cases h : a' = a
      · simpa [h] using ih
      · simpa [h, Ne.symm h] using ih
    · simp only [Memory.erase, List.filter_cons, bne_iff_ne, ne_eq, hc, not_false_eq_true, if_true,
        Memory.readByte, ih]
      by_cases h : c.1 = a'
      · have : a' ≠ a := fun e => hc (h.trans e)
        simp [h, this]
      · simp [h]

theorem Memory.readByte_insert (m : Memory) (a a' : Nat) (b : Byte) (h : ∀ c ∈ m, c.1 ≠ a) :
    (Memory.insert a b m).readByte a' = if a' = a then b else m.readByte a' := by
  induction m with
  | nil => simp [Memory.insert, Memory.readByte, eq_comm]
  | cons c m ih =>
    have hc : c.1 ≠ a := h c (by simp)
    have ih := ih fun d hd => h d (by simp [hd])
    simp only [Memory.insert]
    split
    · by_cases ha : a' = a
      · simp [Memory.readByte, ha]
      · simp [Memory.readByte, ha, Ne.symm ha]
    · simp only [Memory.readByte, ih]
      by_cases hca : c.1 = a'
      · have : a' ≠ a := fun e => hc (hca.trans e)
        simp [hca, this]
      · simp [hca]

theorem Memory.erase_ne (m : Memory) (a : Nat) : ∀ c ∈ m.erase a, c.1 ≠ a := by
  simp [Memory.erase]

/-- Everything a byte write does to reads. -/
theorem Memory.readByte_writeByte (m : Memory) (a a' : Nat) (b : Byte) :
    (m.writeByte a b).readByte a' = if a' = a then b else m.readByte a' := by
  unfold Memory.writeByte
  split
  · rename_i h; rw [Memory.readByte_erase, h]
  · rw [Memory.readByte_insert _ _ _ _ (m.erase_ne a), Memory.readByte_erase]
    split <;> rfl

/-! ### Words -/

/-- A byte outside the four of a word write reads as before. -/
theorem Memory.readByte_writeWord_other (m : Memory) (a a' : Nat) (v : Word) (h : a' < a ∨ a + 4 ≤ a') :
    (m.writeWord a v).readByte a' = m.readByte a' := by
  simp only [Memory.writeWord, Memory.readByte_writeByte]
  rw [if_neg (by omega), if_neg (by omega), if_neg (by omega), if_neg (by omega)]

/-- A word read where it was written gives the value written. -/
@[simp] theorem Memory.readWord_writeWord_same (m : Memory) (a : Nat) (v : Word) :
    (m.writeWord a v).readWord a = v := by
  conv_rhs => rw [← wordOfBytes_bytes v]
  simp [Memory.readWord, Memory.writeWord, Memory.readByte_writeByte]

/-- A word apart from the one written reads as before. -/
theorem Memory.readWord_writeWord_other (m : Memory) (a a' : Nat) (v : Word) (h : a' + 4 ≤ a ∨ a + 4 ≤ a') :
    (m.writeWord a v).readWord a' = m.readWord a' := by
  simp only [Memory.readWord]
  rw [Memory.readByte_writeWord_other, Memory.readByte_writeWord_other, Memory.readByte_writeWord_other,
    Memory.readByte_writeWord_other] <;> omega

/-- Memories whose bytes read alike have the same words. -/
theorem Memory.readWord_congr {m m' : Memory} (h : ∀ a, m'.readByte a = m.readByte a) (a : Nat) :
    m'.readWord a = m.readWord a := by simp [Memory.readWord, h]

/-! ### The canonical form -/

theorem Memory.wf_erase {m : Memory} (h : m.wf) (a : Nat) : (m.erase a).wf :=
  ⟨h.1.filter _, fun c hc => h.2 c (List.mem_filter.mp hc).1⟩

theorem Memory.mem_insert (m : Memory) (a : Nat) (b : Byte) (c : Host.Cell) :
    c ∈ Memory.insert a b m ↔ c = (a, b) ∨ c ∈ m := by
  induction m with
  | nil => simp [Memory.insert]
  | cons d m ih =>
    simp only [Memory.insert]
    split
    · simp
    · simp [ih, or_left_comm]

theorem Memory.wf_insert {m : Memory} (h : m.wf) {a : Nat} {b : Byte} (hb : b ≠ memFill)
    (ha : ∀ c ∈ m, c.1 ≠ a) : (Memory.insert a b m).wf := by
  refine ⟨?_, fun c hc => ?_⟩
  · obtain ⟨hs, -⟩ := h
    induction m with
    | nil => simp [Memory.insert]
    | cons d m ih =>
      have hd : d.1 ≠ a := ha d (by simp)
      obtain ⟨hlt, hs'⟩ := List.pairwise_cons.mp hs
      simp only [Memory.insert]
      split
      · rename_i hlt'
        refine List.pairwise_cons.mpr ⟨fun c hc => ?_, hs⟩
        rcases List.mem_cons.mp hc with rfl | hc
        · exact hlt'
        · exact lt_trans hlt' (hlt c hc)
      · refine List.pairwise_cons.mpr ⟨fun c hc => ?_, ih (fun c hc => ha c (by simp [hc])) hs'⟩
        rcases (Memory.mem_insert _ _ _ _).mp hc with rfl | hc
        · show d.1 < a
          omega
        · exact hlt c hc
  · rcases (Memory.mem_insert _ _ _ _).mp hc with rfl | hc
    · exact hb
    · exact h.2 c hc

theorem Memory.wf_writeByte {m : Memory} (h : m.wf) (a : Nat) (b : Byte) : (m.writeByte a b).wf := by
  unfold Memory.writeByte
  split
  · exact Memory.wf_erase h a
  · rename_i hb; exact Memory.wf_insert (Memory.wf_erase h a) hb (m.erase_ne a)

theorem Memory.wf_writeWord {m : Memory} (h : m.wf) (a : Nat) (v : Word) : (m.writeWord a v).wf :=
  Memory.wf_writeByte (Memory.wf_writeByte (Memory.wf_writeByte (Memory.wf_writeByte h _ _) _ _) _ _) _ _

theorem Memory.inRam_writeByte {m : Memory} (h : m.inRam) {a : Nat} (ha : a < ramBytes) (b : Byte) :
    (m.writeByte a b).inRam := by
  have he : (m.erase a).inRam := fun c hc => h c (List.mem_filter.mp hc).1
  intro c hc
  unfold Memory.writeByte at hc
  split at hc
  · exact he c hc
  · rcases (Memory.mem_insert _ _ _ _).mp hc with rfl | hc
    · exact ha
    · exact he c hc

theorem Memory.inRam_writeWord {m : Memory} (h : m.inRam) {a : Nat} (ha : a + 3 < ramBytes) (v : Word) :
    (m.writeWord a v).inRam :=
  Memory.inRam_writeByte (Memory.inRam_writeByte (Memory.inRam_writeByte (Memory.inRam_writeByte h
    (by omega) _) (by omega) _) (by omega) _) ha _

/-- Canonical memories that read alike are the same data. -/
theorem Memory.ext {m m' : Memory} (h : m.wf) (h' : m'.wf) (e : ∀ a, m.readByte a = m'.readByte a) : m = m' := by
  have read_head (c : Host.Cell) (m : Memory) : Memory.readByte (c :: m) c.1 = c.2 := by simp [Memory.readByte]
  have read_below (a : Nat) (m : Memory) (hm : ∀ c ∈ m, a < c.1) : m.readByte a = memFill := by
    induction m with
    | nil => rfl
    | cons c m ih =>
      have := hm c (by simp)
      simp only [Memory.readByte, if_neg (show ¬ c.1 = a by omega)]
      exact ih fun d hd => hm d (by simp [hd])
  induction m generalizing m' with
  | nil =>
    cases m' with
    | nil => rfl
    | cons c m' => exact absurd ((read_head c m').symm.trans (e c.1).symm) (h'.2 c (by simp))
  | cons c m ih =>
    cases m' with
    | nil => exact absurd ((read_head c m).symm.trans (e c.1)) (h.2 c (by simp))
    | cons c' m' =>
      obtain ⟨hs, hs0⟩ := List.pairwise_cons.mp h.1
      obtain ⟨hs', hs0'⟩ := List.pairwise_cons.mp h'.1
      have key : c.1 = c'.1 := by
        rcases lt_trichotomy c.1 c'.1 with hlt | heq | hgt
        · refine absurd ((read_head c m).symm.trans ((e c.1).trans (read_below _ _ ?_))) (h.2 c (by simp))
          rintro d hd
          rcases List.mem_cons.mp hd with rfl | hd
          · exact hlt
          · exact lt_trans hlt (hs' d hd)
        · exact heq
        · refine absurd ((read_head c' m').symm.trans ((e c'.1).symm.trans (read_below _ _ ?_))) (h'.2 c' (by simp))
          rintro d hd
          rcases List.mem_cons.mp hd with rfl | hd
          · exact hgt
          · exact lt_trans hgt (hs d hd)
      have hc : c = c' := Prod.ext key (by
        rw [← read_head c m, ← read_head c' m', ← key]
        exact e c.1)
      subst hc
      rw [ih ⟨hs0, fun d hd => h.2 d (by simp [hd])⟩ ⟨hs0', fun d hd => h'.2 d (by simp [hd])⟩]
      intro a
      by_cases ha : c.1 = a
      · subst ha
        rw [read_below _ _ hs, read_below _ _ hs']
      · simpa [Memory.readByte, ha] using e a

/-! ### The written-since-reset bits -/

theorem mem_insertIndex (k j : Nat) (d : List Nat) : j ∈ insertIndex k d ↔ j = k ∨ j ∈ d := by
  induction d with
  | nil => simp [insertIndex]
  | cons i d ih =>
    simp only [insertIndex]
    split
    · simp
    · split
      · rename_i h; subst h; simp
      · simp [ih, or_left_comm]

theorem pairwise_insertIndex {d : List Nat} (h : d.Pairwise (· < ·)) (k : Nat) :
    (insertIndex k d).Pairwise (· < ·) := by
  induction d with
  | nil => simp [insertIndex]
  | cons i d ih =>
    obtain ⟨hlt, hs⟩ := List.pairwise_cons.mp h
    simp only [insertIndex]
    split
    · rename_i hk
      refine List.pairwise_cons.mpr ⟨fun j hj => ?_, h⟩
      rcases List.mem_cons.mp hj with rfl | hj
      · exact hk
      · exact lt_trans hk (hlt j hj)
    · split
      · exact h
      · refine List.pairwise_cons.mpr ⟨fun j hj => ?_, ih hs⟩
        rcases (mem_insertIndex _ _ _).mp hj with rfl | hj
        · omega
        · exact hlt j hj

end Machine

end Sys2Proof
end

