-- ==== Sys2Proof/Laws/Boot.lean ====
section
/-! SUPPORT. What loading an image does to the words of the RAM. -/

namespace Sys2Proof.Machine

/-- A word of the loaded list reads as it was given. -/
theorem readWord_loadWords (ws : List Word) (a : Nat) (m : Memory) (k : Nat) (hk : k < ws.length) :
    (loadWords ws a m).readWord (a + 4 * k) = ws[k] ∧
      ∀ j, j + 4 ≤ a ∨ a + 4 * ws.length ≤ j → (loadWords ws a m).readWord j = m.readWord j := by
  have outside : ∀ (ws : List Word) (a : Nat) (m : Memory) (j : Nat), j + 4 ≤ a ∨ a + 4 * ws.length ≤ j →
      (loadWords ws a m).readWord j = m.readWord j := by
    intro ws
    induction ws with
    | nil => intros; rfl
    | cons w ws ih =>
      intro a m j h
      simp only [List.length_cons] at h
      rw [loadWords, ih (a + 4) _ j (by omega)]
      exact Memory.readWord_writeWord_other _ _ _ _ (by omega)
  refine ⟨?_, outside ws a m⟩
  induction ws generalizing a m k with
  | nil => simp at hk
  | cons w ws ih =>
    cases k with
    | zero => rw [loadWords, outside ws (a + 4) _ _ (by omega)]; simp
    | succ k =>
      rw [loadWords, show a + 4 * (k + 1) = a + 4 + 4 * k by omega, ih (a + 4) _ k (by simpa using hk)]
      rfl

/-- Loading keeps the canonical form and the RAM's bounds. -/
theorem loadWords_keeps (ws : List Word) (a : Nat) (m : Memory) (hw : m.wf) (hr : m.inRam)
    (ha : a + 4 * ws.length ≤ ramBytes) : (loadWords ws a m).wf ∧ (loadWords ws a m).inRam := by
  induction ws generalizing a m with
  | nil => exact ⟨hw, hr⟩
  | cons w ws ih =>
    simp only [List.length_cons] at ha
    exact ih _ _ (Memory.wf_writeWord hw _ _) (Memory.inRam_writeWord hr (by omega) _) (by omega)

end Sys2Proof.Machine
end

