-- ==== Sys2Proof/Laws/Encoding.lean ====
section
/-! SUPPORT. The fields of a packed word are the fields it was packed from, and a packed word keeps its fixed bits. -/

namespace Sys2Proof

@[simp] theorem fnOf_packR (fn op : BitVec 4) (a b c : Reg) : fnOf (packR fn op a b c) = fn := by
  apply BitVec.eq_of_getLsbD_eq; intro i hi
  simp only [fnOf, packR, BitVec.getLsbD_append, BitVec.getLsbD_extractLsb']
  interval_cases i <;> simp

@[simp] theorem opcodeOf_packR (fn op : BitVec 4) (a b c : Reg) : opcodeOf (packR fn op a b c) = op := by
  apply BitVec.eq_of_getLsbD_eq; intro i hi
  simp only [opcodeOf, packR, BitVec.getLsbD_append, BitVec.getLsbD_extractLsb']
  interval_cases i <;> simp

@[simp] theorem zeroOf_packR (fn op : BitVec 4) (a b c : Reg) : zeroOf (packR fn op a b c) = 0#12 := by
  apply BitVec.eq_of_getLsbD_eq; intro i hi
  simp only [zeroOf, packR, BitVec.getLsbD_append, BitVec.getLsbD_extractLsb']
  interval_cases i <;> simp

theorem toFin_eq_of_bits {x : BitVec 4} {r : Reg} (h : x = BitVec.ofFin (w := 4) r) : x.toFin = r := by subst h; rfl

@[simp] theorem regHigh_packR (fn op : BitVec 4) (a b c : Reg) : regHigh (packR fn op a b c) = a := by
  apply toFin_eq_of_bits
  apply BitVec.eq_of_getLsbD_eq; intro i hi
  simp only [packR, BitVec.getLsbD_append, BitVec.getLsbD_extractLsb']
  interval_cases i <;> simp

@[simp] theorem regMid_packR (fn op : BitVec 4) (a b c : Reg) : regMid (packR fn op a b c) = b := by
  apply toFin_eq_of_bits
  apply BitVec.eq_of_getLsbD_eq; intro i hi
  simp only [packR, BitVec.getLsbD_append, BitVec.getLsbD_extractLsb']
  interval_cases i <;> simp

@[simp] theorem regLow_packR (fn op : BitVec 4) (a b c : Reg) : regLow (packR fn op a b c) = c := by
  apply toFin_eq_of_bits
  apply BitVec.eq_of_getLsbD_eq; intro i hi
  simp only [packR, BitVec.getLsbD_append, BitVec.getLsbD_extractLsb']
  interval_cases i <;> simp

@[simp] theorem fnOf_packImm (fn op : BitVec 4) (imm : Imm) (a b : Reg) : fnOf (packImm fn op imm a b) = fn := by
  apply BitVec.eq_of_getLsbD_eq; intro i hi
  simp only [fnOf, packImm, BitVec.getLsbD_append, BitVec.getLsbD_extractLsb']
  interval_cases i <;> simp

@[simp] theorem opcodeOf_packImm (fn op : BitVec 4) (imm : Imm) (a b : Reg) :
    opcodeOf (packImm fn op imm a b) = op := by
  apply BitVec.eq_of_getLsbD_eq; intro i hi
  simp only [opcodeOf, packImm, BitVec.getLsbD_append, BitVec.getLsbD_extractLsb']
  interval_cases i <;> simp

@[simp] theorem immOf_packImm (fn op : BitVec 4) (imm : Imm) (a b : Reg) : immOf (packImm fn op imm a b) = imm := by
  apply BitVec.eq_of_getLsbD_eq; intro i hi
  simp only [immOf, packImm, BitVec.getLsbD_append, BitVec.getLsbD_extractLsb']
  interval_cases i <;> simp

@[simp] theorem regMid_packImm (fn op : BitVec 4) (imm : Imm) (a b : Reg) : regMid (packImm fn op imm a b) = a := by
  apply toFin_eq_of_bits
  apply BitVec.eq_of_getLsbD_eq; intro i hi
  simp only [packImm, BitVec.getLsbD_append, BitVec.getLsbD_extractLsb']
  interval_cases i <;> simp

@[simp] theorem regLow_packImm (fn op : BitVec 4) (imm : Imm) (a b : Reg) : regLow (packImm fn op imm a b) = b := by
  apply toFin_eq_of_bits
  apply BitVec.eq_of_getLsbD_eq; intro i hi
  simp only [packImm, BitVec.getLsbD_append, BitVec.getLsbD_extractLsb']
  interval_cases i <;> simp

/-- Two words with the same function, opcode and low 24 bits are the same word. -/
theorem word_ext {v w : Word} (h1 : fnOf v = fnOf w) (h2 : opcodeOf v = opcodeOf w)
    (h3 : v.extractLsb' 0 24 = w.extractLsb' 0 24) : v = w := by
  apply BitVec.eq_of_getLsbD_eq; intro i hi
  by_cases ha : i < 24
  · have := congrArg (·.getLsbD i) h3; simpa [ha] using this
  · by_cases hb : i < 28
    · have := congrArg (·.getLsbD (i - 24)) h2
      simpa [opcodeOf, show i - 24 < 4 by omega, show 24 + (i - 24) = i by omega] using this
    · have := congrArg (·.getLsbD (i - 28)) h1
      simpa [fnOf, show i - 28 < 4 by omega, show 28 + (i - 28) = i by omega] using this

@[simp] theorem ofFin_regHigh (w : Word) : BitVec.ofFin (w := 4) (regHigh w) = w.extractLsb' 8 4 := rfl
@[simp] theorem ofFin_regMid (w : Word) : BitVec.ofFin (w := 4) (regMid w) = w.extractLsb' 4 4 := rfl
@[simp] theorem ofFin_regLow (w : Word) : BitVec.ofFin (w := 4) (regLow w) = w.extractLsb' 0 4 := rfl

/-- A word of format R is packed from its own fields (30_encoding.md R71). -/
theorem packR_fields {w : Word} (h : zeroOf w = 0#12) :
    packR (fnOf w) (opcodeOf w) (regHigh w) (regMid w) (regLow w) = w := by
  apply word_ext (by simp) (by simp)
  rw [zeroOf] at h
  simp only [packR, ofFin_regHigh, ofFin_regMid, ofFin_regLow, ← h]
  apply BitVec.eq_of_getLsbD_eq; intro i hi
  simp only [BitVec.getLsbD_append, BitVec.getLsbD_extractLsb']
  interval_cases i <;> simp

/-- A word of format I or S is packed from its own fields (30_encoding.md R72, R73). -/
theorem packImm_fields (w : Word) : packImm (fnOf w) (opcodeOf w) (immOf w) (regMid w) (regLow w) = w := by
  apply word_ext (by simp) (by simp)
  simp only [packImm, immOf, ofFin_regMid, ofFin_regLow]
  apply BitVec.eq_of_getLsbD_eq; intro i hi
  simp only [BitVec.getLsbD_append, BitVec.getLsbD_extractLsb']
  interval_cases i <;> simp

end Sys2Proof
end

