-- ==== Sys2Proof/Laws/State.lean ====
section
/-! SUPPORT. What each update of State does to each field, and what a register reads after it. -/

namespace Sys2Proof.Machine

variable (s : State)

@[simp] theorem State.writeReg_regs (r : Reg) (v : Word) : (s.writeReg r v).regs = s.regs.set r v := rfl
@[simp] theorem State.writeReg_pc (r : Reg) (v : Word) : (s.writeReg r v).pc = s.pc := rfl
@[simp] theorem State.writeReg_mem (r : Reg) (v : Word) : (s.writeReg r v).mem = s.mem := rfl
@[simp] theorem State.writeReg_hex (r : Reg) (v : Word) : (s.writeReg r v).hex = s.hex := rfl
@[simp] theorem State.writeReg_ledr (r : Reg) (v : Word) : (s.writeReg r v).ledr = s.ledr := rfl
@[simp] theorem State.writeReg_dirty (r : Reg) (v : Word) : (s.writeReg r v).dirty = s.dirty := rfl
@[simp] theorem State.writeReg_draws (r : Reg) (v : Word) : (s.writeReg r v).draws = s.draws := rfl

@[simp] theorem State.advance_regs : (s.advance).regs = s.regs := rfl
@[simp] theorem State.advance_pc : (s.advance).pc = s.nextPc := rfl
@[simp] theorem State.advance_mem : (s.advance).mem = s.mem := rfl
@[simp] theorem State.advance_hex : (s.advance).hex = s.hex := rfl
@[simp] theorem State.advance_ledr : (s.advance).ledr = s.ledr := rfl
@[simp] theorem State.advance_dirty : (s.advance).dirty = s.dirty := rfl
@[simp] theorem State.advance_draws : (s.advance).draws = s.draws := rfl

@[simp] theorem State.jump_regs (p : Word) : (s.jump p).regs = s.regs := rfl
@[simp] theorem State.jump_pc (p : Word) : (s.jump p).pc = p := rfl
@[simp] theorem State.jump_mem (p : Word) : (s.jump p).mem = s.mem := rfl
@[simp] theorem State.jump_hex (p : Word) : (s.jump p).hex = s.hex := rfl
@[simp] theorem State.jump_ledr (p : Word) : (s.jump p).ledr = s.ledr := rfl
@[simp] theorem State.jump_dirty (p : Word) : (s.jump p).dirty = s.dirty := rfl
@[simp] theorem State.jump_draws (p : Word) : (s.jump p).draws = s.draws := rfl

@[simp] theorem State.markDirty_regs (a : Word) : (s.markDirty a).regs = s.regs := rfl
@[simp] theorem State.markDirty_pc (a : Word) : (s.markDirty a).pc = s.pc := rfl
@[simp] theorem State.markDirty_mem (a : Word) : (s.markDirty a).mem = s.mem := rfl
@[simp] theorem State.markDirty_hex (a : Word) : (s.markDirty a).hex = s.hex := rfl
@[simp] theorem State.markDirty_ledr (a : Word) : (s.markDirty a).ledr = s.ledr := rfl
@[simp] theorem State.markDirty_dirty (a : Word) : (s.markDirty a).dirty = insertIndex (wordIndex a) s.dirty := rfl
@[simp] theorem State.markDirty_draws (a : Word) : (s.markDirty a).draws = s.draws := rfl

@[simp] theorem State.writeRam_regs (a v : Word) : (s.writeRam a v).regs = s.regs := rfl
@[simp] theorem State.writeRam_pc (a v : Word) : (s.writeRam a v).pc = s.pc := rfl
@[simp] theorem State.writeRam_mem (a v : Word) : (s.writeRam a v).mem = s.mem.writeWord a.toNat v := rfl
@[simp] theorem State.writeRam_hex (a v : Word) : (s.writeRam a v).hex = s.hex := rfl
@[simp] theorem State.writeRam_ledr (a v : Word) : (s.writeRam a v).ledr = s.ledr := rfl
@[simp] theorem State.writeRam_dirty (a v : Word) : (s.writeRam a v).dirty = insertIndex (wordIndex a) s.dirty := rfl
@[simp] theorem State.writeRam_draws (a v : Word) : (s.writeRam a v).draws = s.draws := rfl

@[simp] theorem State.writeHex_regs (v : Word) : (s.writeHex v).regs = s.regs := rfl
@[simp] theorem State.writeHex_pc (v : Word) : (s.writeHex v).pc = s.pc := rfl
@[simp] theorem State.writeHex_mem (v : Word) : (s.writeHex v).mem = s.mem := rfl
@[simp] theorem State.writeHex_hex (v : Word) : (s.writeHex v).hex = v.extractLsb' 0 16 := rfl
@[simp] theorem State.writeHex_ledr (v : Word) : (s.writeHex v).ledr = s.ledr := rfl
@[simp] theorem State.writeHex_dirty (v : Word) : (s.writeHex v).dirty = s.dirty := rfl
@[simp] theorem State.writeHex_draws (v : Word) : (s.writeHex v).draws = s.draws := rfl

@[simp] theorem State.writeLedr_regs (v : Word) : (s.writeLedr v).regs = s.regs := rfl
@[simp] theorem State.writeLedr_pc (v : Word) : (s.writeLedr v).pc = s.pc := rfl
@[simp] theorem State.writeLedr_mem (v : Word) : (s.writeLedr v).mem = s.mem := rfl
@[simp] theorem State.writeLedr_hex (v : Word) : (s.writeLedr v).hex = s.hex := rfl
@[simp] theorem State.writeLedr_ledr (v : Word) : (s.writeLedr v).ledr = v.extractLsb' 0 10 := rfl
@[simp] theorem State.writeLedr_dirty (v : Word) : (s.writeLedr v).dirty = s.dirty := rfl
@[simp] theorem State.writeLedr_draws (v : Word) : (s.writeLedr v).draws = s.draws := rfl

@[simp] theorem State.readKey_regs : s.readKey.2.regs = s.regs := rfl
@[simp] theorem State.readKey_pc : s.readKey.2.pc = s.pc := rfl
@[simp] theorem State.readKey_mem : s.readKey.2.mem = s.mem := rfl
@[simp] theorem State.readKey_hex : s.readKey.2.hex = s.hex := rfl
@[simp] theorem State.readKey_ledr : s.readKey.2.ledr = s.ledr := rfl
@[simp] theorem State.readKey_dirty : s.readKey.2.dirty = s.dirty := rfl
@[simp] theorem State.readKey_draws : s.readKey.2.draws = s.draws + 1 := rfl
@[simp] theorem State.readKey_value : s.readKey.1 = (Config.keyDraw s.draws).setWidth 32 := rfl

@[simp] theorem State.readSwitches_regs : s.readSwitches.2.regs = s.regs := rfl
@[simp] theorem State.readSwitches_pc : s.readSwitches.2.pc = s.pc := rfl
@[simp] theorem State.readSwitches_mem : s.readSwitches.2.mem = s.mem := rfl
@[simp] theorem State.readSwitches_hex : s.readSwitches.2.hex = s.hex := rfl
@[simp] theorem State.readSwitches_ledr : s.readSwitches.2.ledr = s.ledr := rfl
@[simp] theorem State.readSwitches_dirty : s.readSwitches.2.dirty = s.dirty := rfl
@[simp] theorem State.readSwitches_draws : s.readSwitches.2.draws = s.draws + 1 := rfl
@[simp] theorem State.readSwitches_value : s.readSwitches.1 = (Config.switchDraw s.draws).setWidth 32 := rfl

/-- A register reads what was last written to it; writing another leaves it alone. -/
theorem State.readReg_writeReg (r q : Reg) (v : Word) :
    (s.writeReg r v).readReg q = if q = r then v else s.readReg q := by
  by_cases h : q = r
  · subst h; simp [State.readReg]
  · have h' : ¬ r.val = q.val := fun e => h (Fin.ext e.symm)
    simp [State.readReg, h, h']

@[simp] theorem State.readReg_writeReg_same (r : Reg) (v : Word) : (s.writeReg r v).readReg r = v := by
  simp [State.readReg_writeReg]

theorem State.readReg_writeReg_other {r q : Reg} (v : Word) (h : q ≠ r) :
    (s.writeReg r v).readReg q = s.readReg q := by simp [State.readReg_writeReg, h]

@[simp] theorem State.readReg_advance (q : Reg) : (s.advance).readReg q = s.readReg q := rfl
@[simp] theorem State.readReg_jump (p : Word) (q : Reg) : (s.jump p).readReg q = s.readReg q := rfl
@[simp] theorem State.readReg_markDirty (a : Word) (q : Reg) : (s.markDirty a).readReg q = s.readReg q := rfl
@[simp] theorem State.readReg_writeRam (a v : Word) (q : Reg) : (s.writeRam a v).readReg q = s.readReg q := rfl
@[simp] theorem State.readReg_writeHex (v : Word) (q : Reg) : (s.writeHex v).readReg q = s.readReg q := rfl
@[simp] theorem State.readReg_writeLedr (v : Word) (q : Reg) : (s.writeLedr v).readReg q = s.readReg q := rfl
@[simp] theorem State.readReg_readKey (q : Reg) : s.readKey.2.readReg q = s.readReg q := rfl
@[simp] theorem State.readReg_readSwitches (q : Reg) : s.readSwitches.2.readReg q = s.readReg q := rfl

/-- Two states with the same register file read the same. -/
theorem State.readReg_congr {s t : State} (h : t.regs = s.regs) (q : Reg) : t.readReg q = s.readReg q := by
  simp [State.readReg, h]

/-- Registers that all read alike are the same register file. -/
theorem State.regs_ext {s t : State} (h : ∀ q, t.readReg q = s.readReg q) : t.regs = s.regs := by
  apply Vector.ext
  intro i hi
  exact h ⟨i, hi⟩

end Sys2Proof.Machine
end

