-- ==== Sys2Proof/Laws/Ops.lean ====
section
/-! SUPPORT. One lemma per shared operation: everything it can answer. -/

namespace Sys2Proof.Machine

@[simp] theorem misaligned_eq_false (a : Word) : misaligned a = false ↔ a.toNat % 4 = 0 := by simp [misaligned]

@[simp] theorem misaligned_eq_true (a : Word) : misaligned a = true ↔ a.toNat % 4 ≠ 0 := by simp [misaligned]

@[simp] theorem inRam_eq_true (a : Word) : inRam a = true ↔ a.toNat < 8192 := by
  rw [inRam, decide_eq_true_iff]; rfl

@[simp] theorem inRam_eq_false (a : Word) : inRam a = false ↔ 8192 ≤ a.toNat := by
  rw [inRam, decide_eq_false_iff_not, not_lt]; rfl

theorem isDirty_eq_true (s : State) (a : Word) : s.isDirty a = true ↔ a.toNat / 4 ∈ s.dirty := by
  simp [State.isDirty, wordIndex]

/-! ### The address map -/

/-- The map in one case distinction (20_memory.md R42). -/
theorem regionOf_cases (a : Word) :
    (regionOf a = .ram ∧ a.toNat < 8192) ∨ (regionOf a = .hex ∧ a = addrHex) ∨
      (regionOf a = .ledr ∧ a = addrLedr) ∨ (regionOf a = .key ∧ a = addrKey) ∨
      (regionOf a = .switches ∧ a = addrSwitches) ∨
      (regionOf a = .unmapped ∧ 8192 ≤ a.toNat ∧ a ≠ addrHex ∧ a ≠ addrLedr ∧ a ≠ addrKey ∧ a ≠ addrSwitches) := by
  unfold regionOf
  split
  · rename_i h; exact .inl ⟨rfl, by simpa using h⟩
  · rename_i h
    have h : 8192 ≤ a.toNat := by simpa using h
    repeat' split
    all_goals simp [*]

theorem regionOf_ram {a : Word} (h : a.toNat < 8192) : regionOf a = .ram := by
  simp [regionOf, (inRam_eq_true a).mpr h]

@[simp] theorem regionOf_hex : regionOf addrHex = .hex := by decide
@[simp] theorem regionOf_ledr : regionOf addrLedr = .ledr := by decide
@[simp] theorem regionOf_key : regionOf addrKey = .key := by decide
@[simp] theorem regionOf_switches : regionOf addrSwitches = .switches := by decide

theorem loadable_iff (ea : Word) :
    loadable ea = true ↔ ea.toNat % 4 = 0 ∧ (ea.toNat < 8192 ∨ ea = addrKey ∨ ea = addrSwitches) := by
  simp [loadable, addrKey, addrSwitches, or_assoc]

theorem storable_iff (ea : Word) :
    storable ea = true ↔ ea.toNat % 4 = 0 ∧ (ea.toNat < 8192 ∨ ea = addrHex ∨ ea = addrLedr) := by
  simp [storable, addrHex, addrLedr, or_assoc]

/-! ### MemRead and MemWrite -/

theorem memRead_misaligned {a : Word} (s : State) (h : a.toNat % 4 ≠ 0) :
    memRead a s = .error (.misalignedData s.pc a) := by
  simp [memRead, (misaligned_eq_true a).mpr h]

theorem memRead_ram {a : Word} (s : State) (h : a.toNat % 4 = 0) (hr : a.toNat < 8192) :
    memRead a s = .ok (s.mem.readWord a.toNat, s) := by
  simp [memRead, (misaligned_eq_false a).mpr h, regionOf_ram hr]

theorem memRead_key (s : State) : memRead addrKey s = .ok s.readKey := rfl

theorem memRead_switches (s : State) : memRead addrSwitches s = .ok s.readSwitches := rfl

theorem memWrite_misaligned {a : Word} (v : Word) (s : State) (h : a.toNat % 4 ≠ 0) :
    memWrite a v s = .error (.misalignedData s.pc a) := by
  simp [memWrite, (misaligned_eq_true a).mpr h]

theorem memWrite_ram {a : Word} (v : Word) (s : State) (h : a.toNat % 4 = 0) (hr : a.toNat < 8192) :
    memWrite a v s = .ok (s.writeRam a v) := by
  simp [memWrite, (misaligned_eq_false a).mpr h, regionOf_ram hr]

theorem memWrite_hex (v : Word) (s : State) : memWrite addrHex v s = .ok (s.writeHex v) := rfl

theorem memWrite_ledr (v : Word) (s : State) : memWrite addrLedr v s = .ok (s.writeLedr v) := rfl

/-- Everything a load that completes can be (20_memory.md R50). -/
theorem memRead_ok {a v : Word} {s s' : State} (h : memRead a s = .ok (v, s')) :
    a.toNat % 4 = 0 ∧
      ((a.toNat < 8192 ∧ v = s.mem.readWord a.toNat ∧ s' = s) ∨
        (a = addrKey ∧ v = (Config.keyDraw s.draws).setWidth 32 ∧ s' = { s with draws := s.draws + 1 }) ∨
        (a = addrSwitches ∧ v = (Config.switchDraw s.draws).setWidth 32 ∧ s' = { s with draws := s.draws + 1 })) := by
  by_cases hal : a.toNat % 4 = 0
  · refine ⟨hal, ?_⟩
    simp only [memRead, (misaligned_eq_false a).mpr hal, Bool.false_eq_true, if_false] at h
    obtain ⟨hr, ha⟩ | ⟨hr, -⟩ | ⟨hr, -⟩ | ⟨hr, ha⟩ | ⟨hr, ha⟩ | ⟨hr, -⟩ := regionOf_cases a <;>
      rw [hr] at h <;> cases h
    · exact .inl ⟨ha, rfl, rfl⟩
    · exact .inr (.inl ⟨ha, rfl, rfl⟩)
    · exact .inr (.inr ⟨ha, rfl, rfl⟩)
  · rw [memRead_misaligned s hal] at h; cases h

/-- Everything a load that faults can be (20_memory.md R47, R50). -/
theorem memRead_error {a : Word} {s : State} {f : Fault} (h : memRead a s = .error f) :
    (a.toNat % 4 ≠ 0 ∧ f = .misalignedData s.pc a) ∨
      (a.toNat % 4 = 0 ∧ 8192 ≤ a.toNat ∧ a ≠ addrKey ∧ a ≠ addrSwitches ∧ f = .unmappedAddress s.pc a .load) := by
  by_cases hal : a.toNat % 4 = 0
  · refine .inr ⟨hal, ?_⟩
    simp only [memRead, (misaligned_eq_false a).mpr hal, Bool.false_eq_true, if_false] at h
    obtain ⟨hr, -⟩ | ⟨hr, rfl⟩ | ⟨hr, rfl⟩ | ⟨hr, -⟩ | ⟨hr, -⟩ | ⟨hr, h8, -, -, hk, hs⟩ := regionOf_cases a <;>
      rw [hr] at h <;> cases h
    · exact ⟨by decide, by decide, by decide, rfl⟩
    · exact ⟨by decide, by decide, by decide, rfl⟩
    · exact ⟨h8, hk, hs, rfl⟩
  · rw [memRead_misaligned s hal] at h; cases h; exact .inl ⟨hal, rfl⟩

/-- Everything a store that completes can be (20_memory.md R51). -/
theorem memWrite_ok {a v : Word} {s s' : State} (h : memWrite a v s = .ok s') :
    a.toNat % 4 = 0 ∧
      ((a.toNat < 8192 ∧ s' = s.writeRam a v) ∨ (a = addrHex ∧ s' = s.writeHex v) ∨
        (a = addrLedr ∧ s' = s.writeLedr v)) := by
  by_cases hal : a.toNat % 4 = 0
  · refine ⟨hal, ?_⟩
    simp only [memWrite, (misaligned_eq_false a).mpr hal, Bool.false_eq_true, if_false] at h
    obtain ⟨hr, ha⟩ | ⟨hr, ha⟩ | ⟨hr, ha⟩ | ⟨hr, -⟩ | ⟨hr, -⟩ | ⟨hr, -⟩ := regionOf_cases a <;>
      rw [hr] at h <;> cases h
    · exact .inl ⟨ha, rfl⟩
    · exact .inr (.inl ⟨ha, rfl⟩)
    · exact .inr (.inr ⟨ha, rfl⟩)
  · rw [memWrite_misaligned v s hal] at h; cases h

/-- Everything a store that faults can be (20_memory.md R47, R51). -/
theorem memWrite_error {a v : Word} {s : State} {f : Fault} (h : memWrite a v s = .error f) :
    (a.toNat % 4 ≠ 0 ∧ f = .misalignedData s.pc a) ∨
      (a.toNat % 4 = 0 ∧ 8192 ≤ a.toNat ∧ a ≠ addrHex ∧ a ≠ addrLedr ∧ f = .unmappedAddress s.pc a .store) := by
  by_cases hal : a.toNat % 4 = 0
  · refine .inr ⟨hal, ?_⟩
    simp only [memWrite, (misaligned_eq_false a).mpr hal, Bool.false_eq_true, if_false] at h
    obtain ⟨hr, -⟩ | ⟨hr, -⟩ | ⟨hr, -⟩ | ⟨hr, rfl⟩ | ⟨hr, rfl⟩ | ⟨hr, h8, hh, hl, -, -⟩ := regionOf_cases a <;>
      rw [hr] at h <;> cases h
    · exact ⟨by decide, by decide, by decide, rfl⟩
    · exact ⟨by decide, by decide, by decide, rfl⟩
    · exact ⟨h8, hh, hl, rfl⟩
  · rw [memWrite_misaligned v s hal] at h; cases h; exact .inl ⟨hal, rfl⟩

end Sys2Proof.Machine
end

