-- ==== Sys2Proof/Laws/Step.lean ====
section
/-! SUPPORT. What fetching answers, and everything a completed instruction can be: the invariants and whole-machine
rules follow from `exec_next` and `step_next` without unfolding an instruction again. -/

namespace Sys2Proof.Machine

/-! ### Fetch and step -/

/-- `Fetch` answers a word exactly where R49 lets it (20_memory.md R49). -/
theorem fetch_ok (a w : Word) (s : State) :
    fetch a s = .ok w ↔
      a.toNat % 4 = 0 ∧ a.toNat < 8192 ∧ a.toNat / 4 ∉ s.dirty ∧ w = s.mem.readWord a.toNat := by
  unfold fetch
  by_cases hm : a.toNat % 4 = 0
  · by_cases hr : a.toNat < 8192
    · by_cases hd : a.toNat / 4 ∈ s.dirty
      · simp [(misaligned_eq_false a).mpr hm, (inRam_eq_true a).mpr hr, (isDirty_eq_true s a).mpr hd, hd]
      · have hd' : s.isDirty a = false := by
          rw [Bool.eq_false_iff]; exact fun h => hd ((isDirty_eq_true s a).mp h)
        simp [(misaligned_eq_false a).mpr hm, (inRam_eq_true a).mpr hr, hd', hd, hm, hr, eq_comm]
    · simp [(misaligned_eq_false a).mpr hm, (inRam_eq_false a).mpr (by omega), hr]
  · simp [(misaligned_eq_true a).mpr hm, hm]

theorem fetch_misaligned {a : Word} (s : State) (h : a.toNat % 4 ≠ 0) : fetch a s = .error (.misalignedFetch a) := by
  simp [fetch, (misaligned_eq_true a).mpr h]

theorem fetch_outside {a : Word} (s : State) (h : a.toNat % 4 = 0) (hr : 8192 ≤ a.toNat) :
    fetch a s = .error (.fetchOutsideRam a) := by
  simp [fetch, (misaligned_eq_false a).mpr h, (inRam_eq_false a).mpr hr]

theorem fetch_modified {a : Word} (s : State) (h : a.toNat % 4 = 0) (hr : a.toNat < 8192)
    (hd : a.toNat / 4 ∈ s.dirty) : fetch a s = .error (.fetchOfModifiedWord a) := by
  simp [fetch, (misaligned_eq_false a).mpr h, (inRam_eq_true a).mpr hr, (isDirty_eq_true s a).mpr hd]

theorem fetchInstr_ok (s : State) (i : Instr) :
    fetchInstr s = .ok i ↔ ∃ w, fetch s.pc s = .ok w ∧ decode w = .ok i := by
  unfold fetchInstr decodeFetched
  cases hf : fetch s.pc s with
  | error f => simp
  | ok w => cases hd : decode w <;> simp [hd]

/-- A fetch that faults is the whole step. -/
theorem step_of_fetch_error {s : State} {f : Fault} (h : fetch s.pc s = .error f) : step s = .fault f := by
  simp [step, fetchInstr, h]

/-- A step whose fetch answers a word runs what the word decodes to. -/
theorem step_of_fetch {s : State} {w : Word} {i : Instr} (h : fetch s.pc s = .ok w) (hd : decode w = .ok i) :
    step s = exec i s := by
  simp [step, (fetchInstr_ok s i).mpr ⟨w, h, hd⟩]

/-- A step whose fetch answers a word that no instruction has stops. -/
theorem step_of_reserved {s : State} {w : Word} {r : DecodeReject} (h : fetch s.pc s = .ok w)
    (hd : decode w = .error r) : step s = .fault (.reservedEncoding s.pc w) := by
  simp [step, fetchInstr, decodeFetched, h, hd]

/-- Everything a step that completes did: a word fetched, decoded and run. -/
theorem step_next {s t : State} (h : step s = .next t) :
    ∃ w i, fetch s.pc s = .ok w ∧ decode w = .ok i ∧ exec i s = .next t := by
  unfold step at h
  cases hf : fetchInstr s with
  | error f => rw [hf] at h; cases h
  | ok i =>
    rw [hf] at h
    obtain ⟨w, hw, hd⟩ := (fetchInstr_ok s i).mp hf
    exact ⟨w, i, hw, hd, h⟩

/-! ### Instructions -/

/-- Everything a completed instruction can be: one register written (ALU, compare, a load from the RAM), a device
load, a store, a branch, or a jump. -/
theorem exec_next {i : Instr} {s t : State} (h : exec i s = .next t) :
    (∃ rd v, destination i = some rd ∧ branchOf i s = none ∧ (∀ imm rs1 rd, i ≠ .jal imm rs1 rd) ∧
      t = (s.writeReg rd v).advance) ∨
    (∃ imm rs1 rd v, i = .lw imm rs1 rd ∧
      (effectiveAddress s rs1 imm = addrKey ∨ effectiveAddress s rs1 imm = addrSwitches) ∧
      t = (State.writeReg { s with draws := s.draws + 1 } rd v).advance) ∨
    (∃ imm rs1 rs2, i = .sw imm rs1 rs2 ∧ (effectiveAddress s rs1 imm).toNat % 4 = 0 ∧
      (((effectiveAddress s rs1 imm).toNat < 8192 ∧
          t = (s.writeRam (effectiveAddress s rs1 imm) (s.readReg rs2)).advance) ∨
        (effectiveAddress s rs1 imm = addrHex ∧ t = (s.writeHex (s.readReg rs2)).advance) ∨
        (effectiveAddress s rs1 imm = addrLedr ∧ t = (s.writeLedr (s.readReg rs2)).advance))) ∨
    (∃ imm taken, branchOf i s = some (imm, taken) ∧ destination i = none ∧
      t = if taken then s.jump (branchTarget s.pc imm) else s.advance) ∨
    (∃ imm rs1 rd, i = .jal imm rs1 rd ∧ t = (s.writeReg rd s.nextPc).jump (jalTarget s rs1 imm)) := by
  cases i
  case lw imm rs1 rd =>
    simp only [exec, execLw] at h
    split at h
    · cases h
    · rename_i v s' hm
      cases h
      obtain ⟨-, ⟨-, -, rfl⟩ | ⟨ha, -, rfl⟩ | ⟨ha, -, rfl⟩⟩ := memRead_ok hm
      · exact .inl ⟨rd, v, rfl, rfl, nofun, rfl⟩
      · exact .inr (.inl ⟨imm, rs1, rd, v, rfl, .inl ha, rfl⟩)
      · exact .inr (.inl ⟨imm, rs1, rd, v, rfl, .inr ha, rfl⟩)
  case sw imm rs1 rs2 =>
    simp only [exec, execSw] at h
    split at h
    · cases h
    · rename_i s' hm
      cases h
      obtain ⟨hal, ⟨hr, rfl⟩ | ⟨ha, rfl⟩ | ⟨ha, rfl⟩⟩ := memWrite_ok hm
      · exact .inr (.inr (.inl ⟨imm, rs1, rs2, rfl, hal, .inl ⟨hr, rfl⟩⟩))
      · exact .inr (.inr (.inl ⟨imm, rs1, rs2, rfl, hal, .inr (.inl ⟨ha, rfl⟩)⟩))
      · exact .inr (.inr (.inl ⟨imm, rs1, rs2, rfl, hal, .inr (.inr ⟨ha, rfl⟩)⟩))
  case jal imm rs1 rd => cases h; exact .inr (.inr (.inr (.inr ⟨imm, rs1, rd, rfl, rfl⟩)))
  all_goals first
    | (cases h; exact .inl ⟨_, _, rfl, rfl, nofun, rfl⟩)
    | (cases h; exact .inr (.inr (.inr (.inl ⟨_, _, rfl, rfl, rfl⟩))))

/-- Everything an instruction that faults can be: LW or SW at an address it may not use (60_exceptions.md R272). -/
theorem exec_fault {i : Instr} {s : State} {f : Fault} (h : exec i s = .fault f) :
    (∃ imm rs1 rd, i = .lw imm rs1 rd ∧ memRead (effectiveAddress s rs1 imm) s = .error f) ∨
    (∃ imm rs1 rs2, i = .sw imm rs1 rs2 ∧ memWrite (effectiveAddress s rs1 imm) (s.readReg rs2) s = .error f) := by
  cases i
  case lw imm rs1 rd =>
    simp only [exec, execLw] at h
    split at h
    · rename_i hm; cases h; exact .inl ⟨imm, rs1, rd, rfl, hm⟩
    · cases h
  case sw imm rs1 rs2 =>
    simp only [exec, execSw] at h
    split at h
    · rename_i hm; cases h; exact .inr ⟨imm, rs1, rs2, rfl, hm⟩
    · cases h
  all_goals cases h

/-- No instruction is refused. -/
theorem exec_not_refused (i : Instr) (s : State) (r : Refusal) : exec i s ≠ .refused r := by
  intro h
  cases i
  case lw => simp only [exec, execLw] at h; split at h <;> cases h
  case sw => simp only [exec, execSw] at h; split at h <;> cases h
  all_goals cases h

end Sys2Proof.Machine
end

