-- ==== Sys2Proof/Laws/Exec.lean ====
section
/-! SUPPORT. Each shared ending of an instruction, each operand form and each condition said once: what it writes,
what it leaves alone, and its value in the terms of the claims. -/

namespace Sys2Proof.Machine

/-! ### The endings -/

/-- Everything `writeBack` does (00_scope.md R10). -/
theorem writeBack_spec (rd : Reg) (v : Word) (s : State) :
    ∃ t, writeBack rd v s = .next t ∧ writesRegister rd v s t :=
  ⟨_, rfl, rfl, by simp, fun r hr => by simp [State.readReg_writeReg, hr], fun _ => rfl, rfl, rfl, rfl, rfl⟩

/-- Everything the class operation of ALU-R does (40_alu_r.md R100). -/
theorem aluR_spec (op : Word → Word → Word) (rs2 rs1 rd : Reg) (s : State) :
    ∃ t, aluR op rs2 rs1 rd s = .next t ∧ writesRegister rd (op (s.readReg rs1) (s.readReg rs2)) s t :=
  writeBack_spec _ _ _

/-- Writing `pc` alone. -/
theorem jump_writesPcOnly (s : State) (p : Word) : writesPcOnly p s (s.jump p) :=
  ⟨rfl, fun _ => rfl, fun _ => rfl, rfl, rfl, rfl, rfl⟩

/-- Everything a branch does, taken or not (45_branch.md R190). -/
theorem branchIf_spec (taken : Bool) (imm : Imm) (s : State) :
    ∃ t, branchIf taken imm s = .next t ∧
      writesPcOnly (if taken then branchTarget s.pc imm else s.pc + 4#32) s t := by
  refine ⟨_, rfl, ?_⟩
  cases taken <;> exact jump_writesPcOnly s _

/-! ### Scaled immediates (30_encoding.md R76) -/

/-- Shifting left by 2 is multiplying by 4. -/
theorem scaledImm_eq_mul (imm : Imm) : scaledImm imm = imm.signExtend 32 * 4#32 := by
  apply BitVec.eq_of_toNat_eq
  simp [scaledImm, sext32, BitVec.toNat_shiftLeft, BitVec.toNat_mul, Nat.shiftLeft_eq]

theorem branchTarget_eq_takenPc (pc : Word) (imm : Imm) : branchTarget pc imm = takenPc pc imm := by
  simp [branchTarget, takenPc, scaledImm_eq_mul]

theorem jalTarget_eq (s : State) (rs1 : Reg) (imm : Imm) :
    jalTarget s rs1 imm = s.readReg rs1 + imm.signExtend 32 * 4#32 := by
  simp [jalTarget, scaledImm_eq_mul]

/-! ### The conditions as rows of 43_cmp_r.md R159 -/

theorem condF_eq_row (a b : Word) : condF a b = orderRow false false false a b := by
  simp [condF, orderRow]

theorem condT_eq_row (a b : Word) : condT a b = orderRow true true true a b := by
  simp [condT, orderRow]

/-- Less, equal or greater in signed terms, each with what the order tests then say. -/
theorem signed_trichotomy (a b : Word) :
    (a ≠ b ∧ a.toInt < b.toInt ∧ a.toInt ≤ b.toInt ∧ ¬b.toInt < a.toInt ∧ ¬b.toInt ≤ a.toInt) ∨ a = b ∨
      (a ≠ b ∧ b.toInt < a.toInt ∧ b.toInt ≤ a.toInt ∧ ¬a.toInt < b.toInt ∧ ¬a.toInt ≤ b.toInt) := by
  rcases lt_trichotomy a.toInt b.toInt with h | h | h
  · exact .inl ⟨fun e => by simp [e] at h, by omega, by omega, by omega, by omega⟩
  · exact .inr (.inl (BitVec.toInt_inj.mp h))
  · exact .inr (.inr ⟨fun e => by simp [e] at h, by omega, by omega, by omega, by omega⟩)

theorem condEq_eq_row (a b : Word) : condEq a b = orderRow false true false a b := by
  unfold condEq orderRow
  obtain ⟨h₁, h₂, h₃, h₄, h₅⟩ | rfl | ⟨h₁, h₂, h₃, h₄, h₅⟩ := signed_trichotomy a b <;> simp [*]

theorem condNe_eq_row (a b : Word) : condNe a b = orderRow true false true a b := by
  unfold condNe orderRow
  obtain ⟨h₁, h₂, h₃, h₄, h₅⟩ | rfl | ⟨h₁, h₂, h₃, h₄, h₅⟩ := signed_trichotomy a b <;> simp [*]

theorem condLt_eq_row (a b : Word) : condLt a b = orderRow true false false a b := by
  unfold condLt orderRow
  obtain ⟨h₁, h₂, h₃, h₄, h₅⟩ | rfl | ⟨h₁, h₂, h₃, h₄, h₅⟩ := signed_trichotomy a b <;> simp [signed, *]

theorem condLte_eq_row (a b : Word) : condLte a b = orderRow true true false a b := by
  unfold condLte orderRow
  obtain ⟨h₁, h₂, h₃, h₄, h₅⟩ | rfl | ⟨h₁, h₂, h₃, h₄, h₅⟩ := signed_trichotomy a b <;> simp [signed, *]

theorem condGte_eq_row (a b : Word) : condGte a b = orderRow false true true a b := by
  unfold condGte orderRow
  obtain ⟨h₁, h₂, h₃, h₄, h₅⟩ | rfl | ⟨h₁, h₂, h₃, h₄, h₅⟩ := signed_trichotomy a b <;> simp [signed, *]

theorem condGt_eq_row (a b : Word) : condGt a b = orderRow false false true a b := by
  unfold condGt orderRow
  obtain ⟨h₁, h₂, h₃, h₄, h₅⟩ | rfl | ⟨h₁, h₂, h₃, h₄, h₅⟩ := signed_trichotomy a b <;> simp [signed, *]

end Sys2Proof.Machine
end

