-- ==== Sys2Proof/Laws/PerInstr.lean ====
section
/-! SUPPORT. The family TableRow: every instruction's encoding is a word of its own row of R82, must-be-zero bits
included (30_encoding.md R82, R84). -/

namespace Sys2Proof

/-! ### A packed word under the masks of R82 -/

theorem packR_mask (fn op : BitVec 4) (a b c : Reg) : packR fn op a b c &&& 0xFFFFF000#32 = packR fn op 0 0 0 := by
  apply BitVec.eq_of_getLsbD_eq; intro i hi
  simp only [packR, BitVec.getLsbD_and, BitVec.getLsbD_append]
  interval_cases i <;> simp

theorem packImm_mask (fn op : BitVec 4) (imm : Imm) (a b : Reg) :
    packImm fn op imm a b &&& 0xFF000000#32 = packImm fn op 0 0 0 := by
  apply BitVec.eq_of_getLsbD_eq; intro i hi
  simp only [packImm, BitVec.getLsbD_and, BitVec.getLsbD_append]
  interval_cases i <;> simp

theorem packImmZero_mask (fn op : BitVec 4) (imm : Imm) (b : Reg) :
    packImm fn op imm 0 b &&& 0xFF0000F0#32 = packImm fn op 0 0 0 := by
  apply BitVec.eq_of_getLsbD_eq; intro i hi
  simp only [packImm, BitVec.getLsbD_and, BitVec.getLsbD_append]
  interval_cases i <;> simp

/-- The encoding of `i` is accepted by the row of its name. -/
def Laws.TableRow.Statement (i : Instr) : Prop :=
  ∃ row ∈ opcodeRows, row.mnemonic = i.mnemonic ∧ row.accepts (encode i) = true

/-- A row accepts a word whose masked bits are a packed word equal to its value. -/
theorem Laws.TableRow.of_mask {i : Instr} (row : Row) {v : Word} (hm : row ∈ opcodeRows)
    (hn : row.mnemonic = i.mnemonic) (he : encode i &&& row.mask = v) (hv : v = row.value) :
    Laws.TableRow.Statement i :=
  ⟨row, hm, hn, by rw [Row.accepts, he, hv, beq_self_eq_true]⟩

theorem Laws.TableRow.add (rs2 rs1 rd : Reg) : Laws.TableRow.Statement (.add rs2 rs1 rd) :=
  Laws.TableRow.of_mask ⟨"ADD", 0x3F000000#32, 0xFFFFF000#32⟩ (by decide) rfl (packR_mask _ _ _ _ _) (by decide)

theorem Laws.TableRow.sub (rs2 rs1 rd : Reg) : Laws.TableRow.Statement (.sub rs2 rs1 rd) :=
  Laws.TableRow.of_mask ⟨"SUB", 0x2F000000#32, 0xFFFFF000#32⟩ (by decide) rfl (packR_mask _ _ _ _ _) (by decide)

theorem Laws.TableRow.and (rs2 rs1 rd : Reg) : Laws.TableRow.Statement (.and rs2 rs1 rd) :=
  Laws.TableRow.of_mask ⟨"AND", 0x7F000000#32, 0xFFFFF000#32⟩ (by decide) rfl (packR_mask _ _ _ _ _) (by decide)

theorem Laws.TableRow.or (rs2 rs1 rd : Reg) : Laws.TableRow.Statement (.or rs2 rs1 rd) :=
  Laws.TableRow.of_mask ⟨"OR", 0x6F000000#32, 0xFFFFF000#32⟩ (by decide) rfl (packR_mask _ _ _ _ _) (by decide)

theorem Laws.TableRow.xor (rs2 rs1 rd : Reg) : Laws.TableRow.Statement (.xor rs2 rs1 rd) :=
  Laws.TableRow.of_mask ⟨"XOR", 0x5F000000#32, 0xFFFFF000#32⟩ (by decide) rfl (packR_mask _ _ _ _ _) (by decide)

theorem Laws.TableRow.nand (rs2 rs1 rd : Reg) : Laws.TableRow.Statement (.nand rs2 rs1 rd) :=
  Laws.TableRow.of_mask ⟨"NAND", 0xBF000000#32, 0xFFFFF000#32⟩ (by decide) rfl (packR_mask _ _ _ _ _) (by decide)

theorem Laws.TableRow.nor (rs2 rs1 rd : Reg) : Laws.TableRow.Statement (.nor rs2 rs1 rd) :=
  Laws.TableRow.of_mask ⟨"NOR", 0xAF000000#32, 0xFFFFF000#32⟩ (by decide) rfl (packR_mask _ _ _ _ _) (by decide)

theorem Laws.TableRow.xnor (rs2 rs1 rd : Reg) : Laws.TableRow.Statement (.xnor rs2 rs1 rd) :=
  Laws.TableRow.of_mask ⟨"XNOR", 0x9F000000#32, 0xFFFFF000#32⟩ (by decide) rfl (packR_mask _ _ _ _ _) (by decide)

theorem Laws.TableRow.addi (imm : Imm) (rs1 rd : Reg) : Laws.TableRow.Statement (.addi imm rs1 rd) :=
  Laws.TableRow.of_mask ⟨"ADDI", 0x3B000000#32, 0xFF000000#32⟩ (by decide) rfl (packImm_mask _ _ _ _ _) (by decide)

theorem Laws.TableRow.subi (imm : Imm) (rs1 rd : Reg) : Laws.TableRow.Statement (.subi imm rs1 rd) :=
  Laws.TableRow.of_mask ⟨"SUBI", 0x2B000000#32, 0xFF000000#32⟩ (by decide) rfl (packImm_mask _ _ _ _ _) (by decide)

theorem Laws.TableRow.andi (imm : Imm) (rs1 rd : Reg) : Laws.TableRow.Statement (.andi imm rs1 rd) :=
  Laws.TableRow.of_mask ⟨"ANDI", 0x7B000000#32, 0xFF000000#32⟩ (by decide) rfl (packImm_mask _ _ _ _ _) (by decide)

theorem Laws.TableRow.ori (imm : Imm) (rs1 rd : Reg) : Laws.TableRow.Statement (.ori imm rs1 rd) :=
  Laws.TableRow.of_mask ⟨"ORI", 0x6B000000#32, 0xFF000000#32⟩ (by decide) rfl (packImm_mask _ _ _ _ _) (by decide)

theorem Laws.TableRow.xori (imm : Imm) (rs1 rd : Reg) : Laws.TableRow.Statement (.xori imm rs1 rd) :=
  Laws.TableRow.of_mask ⟨"XORI", 0x5B000000#32, 0xFF000000#32⟩ (by decide) rfl (packImm_mask _ _ _ _ _) (by decide)

theorem Laws.TableRow.nandi (imm : Imm) (rs1 rd : Reg) : Laws.TableRow.Statement (.nandi imm rs1 rd) :=
  Laws.TableRow.of_mask ⟨"NANDI", 0xBB000000#32, 0xFF000000#32⟩ (by decide) rfl (packImm_mask _ _ _ _ _) (by decide)

theorem Laws.TableRow.nori (imm : Imm) (rs1 rd : Reg) : Laws.TableRow.Statement (.nori imm rs1 rd) :=
  Laws.TableRow.of_mask ⟨"NORI", 0xAB000000#32, 0xFF000000#32⟩ (by decide) rfl (packImm_mask _ _ _ _ _) (by decide)

theorem Laws.TableRow.xnori (imm : Imm) (rs1 rd : Reg) : Laws.TableRow.Statement (.xnori imm rs1 rd) :=
  Laws.TableRow.of_mask ⟨"XNORI", 0x9B000000#32, 0xFF000000#32⟩ (by decide) rfl (packImm_mask _ _ _ _ _) (by decide)

theorem Laws.TableRow.mvhi (imm : Imm) (rd : Reg) : Laws.TableRow.Statement (.mvhi imm rd) :=
  Laws.TableRow.of_mask ⟨"MVHI", 0xFB000000#32, 0xFF0000F0#32⟩ (by decide) rfl (packImmZero_mask _ _ _ _) (by decide)

theorem Laws.TableRow.lw (imm : Imm) (rs1 rd : Reg) : Laws.TableRow.Statement (.lw imm rs1 rd) :=
  Laws.TableRow.of_mask ⟨"LW", 0x09000000#32, 0xFF000000#32⟩ (by decide) rfl (packImm_mask _ _ _ _ _) (by decide)

theorem Laws.TableRow.sw (imm : Imm) (rs1 rs2 : Reg) : Laws.TableRow.Statement (.sw imm rs1 rs2) :=
  Laws.TableRow.of_mask ⟨"SW", 0x08000000#32, 0xFF000000#32⟩ (by decide) rfl (packImm_mask _ _ _ _ _) (by decide)

theorem Laws.TableRow.f (rs2 rs1 rd : Reg) : Laws.TableRow.Statement (.f rs2 rs1 rd) :=
  Laws.TableRow.of_mask ⟨"F", 0x3E000000#32, 0xFFFFF000#32⟩ (by decide) rfl (packR_mask _ _ _ _ _) (by decide)

theorem Laws.TableRow.eq (rs2 rs1 rd : Reg) : Laws.TableRow.Statement (.eq rs2 rs1 rd) :=
  Laws.TableRow.of_mask ⟨"EQ", 0xCE000000#32, 0xFFFFF000#32⟩ (by decide) rfl (packR_mask _ _ _ _ _) (by decide)

theorem Laws.TableRow.lt (rs2 rs1 rd : Reg) : Laws.TableRow.Statement (.lt rs2 rs1 rd) :=
  Laws.TableRow.of_mask ⟨"LT", 0xDE000000#32, 0xFFFFF000#32⟩ (by decide) rfl (packR_mask _ _ _ _ _) (by decide)

theorem Laws.TableRow.lte (rs2 rs1 rd : Reg) : Laws.TableRow.Statement (.lte rs2 rs1 rd) :=
  Laws.TableRow.of_mask ⟨"LTE", 0x2E000000#32, 0xFFFFF000#32⟩ (by decide) rfl (packR_mask _ _ _ _ _) (by decide)

theorem Laws.TableRow.t (rs2 rs1 rd : Reg) : Laws.TableRow.Statement (.t rs2 rs1 rd) :=
  Laws.TableRow.of_mask ⟨"T", 0xFE000000#32, 0xFFFFF000#32⟩ (by decide) rfl (packR_mask _ _ _ _ _) (by decide)

theorem Laws.TableRow.ne (rs2 rs1 rd : Reg) : Laws.TableRow.Statement (.ne rs2 rs1 rd) :=
  Laws.TableRow.of_mask ⟨"NE", 0x0E000000#32, 0xFFFFF000#32⟩ (by decide) rfl (packR_mask _ _ _ _ _) (by decide)

theorem Laws.TableRow.gte (rs2 rs1 rd : Reg) : Laws.TableRow.Statement (.gte rs2 rs1 rd) :=
  Laws.TableRow.of_mask ⟨"GTE", 0x1E000000#32, 0xFFFFF000#32⟩ (by decide) rfl (packR_mask _ _ _ _ _) (by decide)

theorem Laws.TableRow.gt (rs2 rs1 rd : Reg) : Laws.TableRow.Statement (.gt rs2 rs1 rd) :=
  Laws.TableRow.of_mask ⟨"GT", 0xEE000000#32, 0xFFFFF000#32⟩ (by decide) rfl (packR_mask _ _ _ _ _) (by decide)

theorem Laws.TableRow.fi (imm : Imm) (rs1 rd : Reg) : Laws.TableRow.Statement (.fi imm rs1 rd) :=
  Laws.TableRow.of_mask ⟨"FI", 0x3A000000#32, 0xFF000000#32⟩ (by decide) rfl (packImm_mask _ _ _ _ _) (by decide)

theorem Laws.TableRow.eqi (imm : Imm) (rs1 rd : Reg) : Laws.TableRow.Statement (.eqi imm rs1 rd) :=
  Laws.TableRow.of_mask ⟨"EQI", 0xCA000000#32, 0xFF000000#32⟩ (by decide) rfl (packImm_mask _ _ _ _ _) (by decide)

theorem Laws.TableRow.lti (imm : Imm) (rs1 rd : Reg) : Laws.TableRow.Statement (.lti imm rs1 rd) :=
  Laws.TableRow.of_mask ⟨"LTI", 0xDA000000#32, 0xFF000000#32⟩ (by decide) rfl (packImm_mask _ _ _ _ _) (by decide)

theorem Laws.TableRow.ltei (imm : Imm) (rs1 rd : Reg) : Laws.TableRow.Statement (.ltei imm rs1 rd) :=
  Laws.TableRow.of_mask ⟨"LTEI", 0x2A000000#32, 0xFF000000#32⟩ (by decide) rfl (packImm_mask _ _ _ _ _) (by decide)

theorem Laws.TableRow.ti (imm : Imm) (rs1 rd : Reg) : Laws.TableRow.Statement (.ti imm rs1 rd) :=
  Laws.TableRow.of_mask ⟨"TI", 0xFA000000#32, 0xFF000000#32⟩ (by decide) rfl (packImm_mask _ _ _ _ _) (by decide)

theorem Laws.TableRow.nei (imm : Imm) (rs1 rd : Reg) : Laws.TableRow.Statement (.nei imm rs1 rd) :=
  Laws.TableRow.of_mask ⟨"NEI", 0x0A000000#32, 0xFF000000#32⟩ (by decide) rfl (packImm_mask _ _ _ _ _) (by decide)

theorem Laws.TableRow.gtei (imm : Imm) (rs1 rd : Reg) : Laws.TableRow.Statement (.gtei imm rs1 rd) :=
  Laws.TableRow.of_mask ⟨"GTEI", 0x1A000000#32, 0xFF000000#32⟩ (by decide) rfl (packImm_mask _ _ _ _ _) (by decide)

theorem Laws.TableRow.gti (imm : Imm) (rs1 rd : Reg) : Laws.TableRow.Statement (.gti imm rs1 rd) :=
  Laws.TableRow.of_mask ⟨"GTI", 0xEA000000#32, 0xFF000000#32⟩ (by decide) rfl (packImm_mask _ _ _ _ _) (by decide)

theorem Laws.TableRow.bf (imm : Imm) (rs2 rs1 : Reg) : Laws.TableRow.Statement (.bf imm rs2 rs1) :=
  Laws.TableRow.of_mask ⟨"BF", 0x30000000#32, 0xFF000000#32⟩ (by decide) rfl (packImm_mask _ _ _ _ _) (by decide)

theorem Laws.TableRow.beq (imm : Imm) (rs2 rs1 : Reg) : Laws.TableRow.Statement (.beq imm rs2 rs1) :=
  Laws.TableRow.of_mask ⟨"BEQ", 0xC0000000#32, 0xFF000000#32⟩ (by decide) rfl (packImm_mask _ _ _ _ _) (by decide)

theorem Laws.TableRow.blt (imm : Imm) (rs2 rs1 : Reg) : Laws.TableRow.Statement (.blt imm rs2 rs1) :=
  Laws.TableRow.of_mask ⟨"BLT", 0xD0000000#32, 0xFF000000#32⟩ (by decide) rfl (packImm_mask _ _ _ _ _) (by decide)

theorem Laws.TableRow.blte (imm : Imm) (rs2 rs1 : Reg) : Laws.TableRow.Statement (.blte imm rs2 rs1) :=
  Laws.TableRow.of_mask ⟨"BLTE", 0x20000000#32, 0xFF000000#32⟩ (by decide) rfl (packImm_mask _ _ _ _ _) (by decide)

theorem Laws.TableRow.beqz (imm : Imm) (rs1 : Reg) : Laws.TableRow.Statement (.beqz imm rs1) :=
  Laws.TableRow.of_mask ⟨"BEQZ", 0x80000000#32, 0xFF0000F0#32⟩ (by decide) rfl (packImmZero_mask _ _ _ _) (by decide)

theorem Laws.TableRow.bltz (imm : Imm) (rs1 : Reg) : Laws.TableRow.Statement (.bltz imm rs1) :=
  Laws.TableRow.of_mask ⟨"BLTZ", 0x90000000#32, 0xFF0000F0#32⟩ (by decide) rfl (packImmZero_mask _ _ _ _) (by decide)

theorem Laws.TableRow.bltez (imm : Imm) (rs1 : Reg) : Laws.TableRow.Statement (.bltez imm rs1) :=
  Laws.TableRow.of_mask ⟨"BLTEZ", 0x60000000#32, 0xFF0000F0#32⟩ (by decide) rfl (packImmZero_mask _ _ _ _) (by decide)

theorem Laws.TableRow.bt (imm : Imm) (rs2 rs1 : Reg) : Laws.TableRow.Statement (.bt imm rs2 rs1) :=
  Laws.TableRow.of_mask ⟨"BT", 0xF0000000#32, 0xFF000000#32⟩ (by decide) rfl (packImm_mask _ _ _ _ _) (by decide)

theorem Laws.TableRow.bne (imm : Imm) (rs2 rs1 : Reg) : Laws.TableRow.Statement (.bne imm rs2 rs1) :=
  Laws.TableRow.of_mask ⟨"BNE", 0x00000000#32, 0xFF000000#32⟩ (by decide) rfl (packImm_mask _ _ _ _ _) (by decide)

theorem Laws.TableRow.bgte (imm : Imm) (rs2 rs1 : Reg) : Laws.TableRow.Statement (.bgte imm rs2 rs1) :=
  Laws.TableRow.of_mask ⟨"BGTE", 0x10000000#32, 0xFF000000#32⟩ (by decide) rfl (packImm_mask _ _ _ _ _) (by decide)

theorem Laws.TableRow.bgt (imm : Imm) (rs2 rs1 : Reg) : Laws.TableRow.Statement (.bgt imm rs2 rs1) :=
  Laws.TableRow.of_mask ⟨"BGT", 0xE0000000#32, 0xFF000000#32⟩ (by decide) rfl (packImm_mask _ _ _ _ _) (by decide)

theorem Laws.TableRow.bnez (imm : Imm) (rs1 : Reg) : Laws.TableRow.Statement (.bnez imm rs1) :=
  Laws.TableRow.of_mask ⟨"BNEZ", 0x40000000#32, 0xFF0000F0#32⟩ (by decide) rfl (packImmZero_mask _ _ _ _) (by decide)

theorem Laws.TableRow.bgtez (imm : Imm) (rs1 : Reg) : Laws.TableRow.Statement (.bgtez imm rs1) :=
  Laws.TableRow.of_mask ⟨"BGTEZ", 0x50000000#32, 0xFF0000F0#32⟩ (by decide) rfl (packImmZero_mask _ _ _ _) (by decide)

theorem Laws.TableRow.bgtz (imm : Imm) (rs1 : Reg) : Laws.TableRow.Statement (.bgtz imm rs1) :=
  Laws.TableRow.of_mask ⟨"BGTZ", 0xA0000000#32, 0xFF0000F0#32⟩ (by decide) rfl (packImmZero_mask _ _ _ _) (by decide)

theorem Laws.TableRow.jal (imm : Imm) (rs1 rd : Reg) : Laws.TableRow.Statement (.jal imm rs1 rd) :=
  Laws.TableRow.of_mask ⟨"JAL", 0x01000000#32, 0xFF000000#32⟩ (by decide) rfl (packImm_mask _ _ _ _ _) (by decide)

end Sys2Proof
end

