-- ==== Sys2Proof/Tests/Slice0.lean ====
section
/-! SUPPORT. Tests of the model against words and results written out in spec/ (95_test_vectors.md unless a test names
another file), and one concrete case that meets the hypotheses of each statement that has some. -/

namespace Sys2Proof.Tests

open Sys2Proof Sys2Proof.Machine

/-! ### Helpers -/

/-- The state after reset but for `pc`, some registers and some RAM words. -/
def machineWith (pc : Word) (regs : List (Reg × Word)) (ram : List (Nat × Word)) : State :=
  { State.reset with
    pc := pc
    regs := regs.foldl (fun v p => v.set p.1 p.2) State.reset.regs
    mem := ram.foldl (fun m c => m.writeWord c.1 c.2) [] }

/-- One step with a word placed at `pc`. -/
def runWord (w : Word) (s : State) : Result := step (placeAtPc w s)

/-- The state an answer leaves, if it is a next state. -/
def stateOf : Result → Option State
  | .next t => some t
  | .fault _ => none
  | .refused _ => none

/-- A register after an answer. -/
def regOf (o : Result) (r : Reg) : Option Word := (stateOf o).map (·.readReg r)

/-- `pc` after an answer. -/
def pcOf (o : Result) : Option Word := (stateOf o).map (·.pc)

/-- A RAM word after an answer. -/
def ramOf (o : Result) (a : Nat) : Option Word := (stateOf o).map (·.mem.readWord a)

/-- R3 after a word run at 0x40 with each pair in R1 and R2. -/
def resultsFor (w : Word) (pairs : List (Word × Word)) : List (Option Word) :=
  pairs.map fun p => regOf (runWord w (machineWith 0x40 [(1, p.1), (2, p.2)] [])) 3

/-- The instructions some words decode to. -/
def decoded (ws : List Word) : List (Option Instr) := ws.map fun w => (decode w).toOption

/-! ### Well-formed words: an ill-formed one for each check (30_encoding.md R83, R84) -/

/-- R83 (a): an empty cell of the opcode map. -/
theorem test_reject_empty_opcode :
    decode 0x02000000#32 = .error (.emptyOpcode 0b0010#4) ∧ wellFormedWord 0x02000000#32 = false := by decide

/-- R83 (b) to (e): an empty cell of each function table. -/
theorem test_reject_empty_function :
    decode 0x4F000213#32 = .error (.emptyFunction 0b1111#4 0b0100#4) ∧
    decode 0xCB000513#32 = .error (.emptyFunction 0b1011#4 0b1100#4) ∧
    decode 0x4E000213#32 = .error (.emptyFunction 0b1110#4 0b0100#4) ∧
    decode 0x8A000513#32 = .error (.emptyFunction 0b1010#4 0b1000#4) ∧
    decode 0xB0000321#32 = .error (.emptyFunction 0b0000#4 0b1011#4) := by decide

/-- R83 (f): LW, SW and JAL with a function that is not 0000. -/
theorem test_reject_function_of_lw_sw_jal :
    [0x19000813#32, 0x18000821#32, 0x1100180F#32].map wellFormedWord = [false, false, false] ∧
    decode 0x1100180F#32 = .error (.emptyFunction 0b0001#4 0b0001#4) := by decide

/-- R83 (g): a must-be-zero bit set in formats R, I0 and S0. -/
theorem test_reject_must_be_zero :
    decode 0x3F001213#32 = .error (.mustBeZero 0b1111#4 0b0011#4) ∧
    decode 0xFB000113#32 = .error (.mustBeZero 0b1011#4 0b1111#4) ∧
    decode 0x80000311#32 = .error (.mustBeZero 0b0000#4 0b1000#4) ∧
    [0x3F001213#32, 0xFB000113#32, 0x80000311#32].map wellFormedWord = [false, false, false] := by decide

/-- Section 2.2: NOR is not XNOR, NORI is not XNORI (90_conflicts.md C2), all ones is nothing. -/
theorem test_neighbours_do_not_swap :
    decoded [0xAF000213#32, 0xAB000013#32, 0xFFFFFFFF#32, 0xFF000213#32] =
      [some (.nor 2 1 3), some (.nori 0 1 3), none, none] := by decide

/-- Too few bytes for an instruction. -/
theorem test_reject_truncated : decodeBytes [0x13#8, 0x02#8, 0x00#8] = .error .truncated := by decide

/-! ### Decoding: the words of section 2.1, every constructor -/

theorem test_decode_alu_r :
    decoded [
        0x3F000213#32, 0x2F000213#32, 0x7F000213#32, 0x6F000213#32, 0x5F000213#32, 0xBF000213#32, 0xAF000213#32,
        0x9F000213#32] = [
        some (.add 2 1 3), some (.sub 2 1 3), some (.and 2 1 3), some (.or 2 1 3), some (.xor 2 1 3),
        some (.nand 2 1 3), some (.nor 2 1 3), some (.xnor 2 1 3)] := by decide

theorem test_decode_alu_i :
    decoded [
        0x3B000513#32, 0x2B000513#32, 0x7B00FF13#32, 0x6B800013#32, 0x5BFFFF13#32, 0xBB0F0F13#32, 0xAB000013#32,
        0x9B000013#32, 0xFBF0000A#32] = [
        some (.addi 5 1 3), some (.subi 5 1 3), some (.andi 0x00FF 1 3), some (.ori 0x8000 1 3),
        some (.xori 0xFFFF 1 3), some (.nandi 0x0F0F 1 3), some (.nori 0 1 3), some (.xnori 0 1 3),
        some (.mvhi 0xF000 10)] := by decide

theorem test_decode_load_store :
    decoded [
        0x09000813#32, 0x09FFFCEF#32, 0x08000821#32, 0x08FFFCFE#32] = [
        some (.lw 8 1 3), some (.lw 0xFFFC 14 15), some (.sw 8 1 2), some (.sw 0xFFFC 14 15)] := by decide

theorem test_decode_cmp_r :
    decoded [
        0x3E000213#32, 0xCE000213#32, 0xDE000213#32, 0x2E000213#32, 0xFE000213#32, 0x0E000213#32, 0x1E000213#32,
        0xEE000213#32] = [
        some (.f 2 1 3), some (.eq 2 1 3), some (.lt 2 1 3), some (.lte 2 1 3), some (.t 2 1 3),
        some (.ne 2 1 3), some (.gte 2 1 3), some (.gt 2 1 3)] := by decide

theorem test_decode_cmp_i :
    decoded [
        0x3A000513#32, 0xCA000513#32, 0xDAFFFF13#32, 0x2A000513#32, 0xFA000513#32, 0x0A000513#32, 0x1A000513#32,
        0xEA000513#32] = [
        some (.fi 5 1 3), some (.eqi 5 1 3), some (.lti 0xFFFF 1 3), some (.ltei 5 1 3), some (.ti 5 1 3),
        some (.nei 5 1 3), some (.gtei 5 1 3), some (.gti 5 1 3)] := by decide

theorem test_decode_branch :
    decoded [
        0x30000321#32, 0xC0000321#32, 0xD0000321#32, 0x20000321#32, 0xF0000321#32, 0x00000321#32, 0x10000321#32,
        0xE0000321#32] = [
        some (.bf 3 2 1), some (.beq 3 2 1), some (.blt 3 2 1), some (.blte 3 2 1), some (.bt 3 2 1),
        some (.bne 3 2 1), some (.bgte 3 2 1), some (.bgt 3 2 1)] := by decide

theorem test_decode_branch_zero :
    decoded [
        0x80000301#32, 0x90000301#32, 0x60000301#32, 0x40FFFE01#32, 0x50000301#32, 0xA0000301#32] = [
        some (.beqz 3 1), some (.bltz 3 1), some (.bltez 3 1), some (.bnez 0xFFFE 1), some (.bgtez 3 1),
        some (.bgtz 3 1)] := by decide

theorem test_decode_jal_and_zero :
    decoded [
        0x0100180F#32, 0x010000F9#32, 0x00000000#32] = [
        some (.jal 0x18 0 15), some (.jal 0 15 9), some (.bne 0 0 0)] := by decide

/-- The host's numbering: one word, bit 0 the least significant; bits above `nbits` are zero. -/
theorem test_table_word :
    decodeTableWord 32 0x3F000213 = some (.add 2 1 3) ∧ decodeTableWord 32 0x02000000 = none ∧
    decodeTableWord 8 0x321 = some (.bne 0 2 1) := by decide

/-- A word placed where the next step fetches runs as the first instruction after reset. -/
theorem test_fetch_word_runs :
    regOf (step (State.reset.withFetchWord 32 0x3B000513)) 3 = some 5#32 ∧
    (State.reset.withFetchWord 32 0x3B000513).mem.readWord 0x40 = 0x3B000513#32 := by decide

/-! ### ALU-R: section 3.1, five pairs each -/

/-- The operand pairs of section 3.1. -/
def aluPairs : List (Word × Word) :=
  [(0xFFFFFFFF, 1), (0x7FFFFFFF, 1), (0, 1), (0x80000000, 0x80000000), (0xF0F0F0F0, 0x0FF00FF0)]

theorem test_add_vectors :
    resultsFor 0x3F000213#32 aluPairs =
      [0x00000000, 0x80000000, 0x00000001, 0x00000000, 0x00E100E0].map some := by decide

theorem test_sub_vectors :
    resultsFor 0x2F000213#32 aluPairs =
      [0xFFFFFFFE, 0x7FFFFFFE, 0xFFFFFFFF, 0x00000000, 0xE100E100].map some := by decide

theorem test_and_vectors :
    resultsFor 0x7F000213#32 aluPairs =
      [0x00000001, 0x00000001, 0x00000000, 0x80000000, 0x00F000F0].map some := by decide

theorem test_or_vectors :
    resultsFor 0x6F000213#32 aluPairs =
      [0xFFFFFFFF, 0x7FFFFFFF, 0x00000001, 0x80000000, 0xFFF0FFF0].map some := by decide

theorem test_xor_vectors :
    resultsFor 0x5F000213#32 aluPairs =
      [0xFFFFFFFE, 0x7FFFFFFE, 0x00000001, 0x00000000, 0xFF00FF00].map some := by decide

theorem test_nand_vectors :
    resultsFor 0xBF000213#32 aluPairs =
      [0xFFFFFFFE, 0xFFFFFFFE, 0xFFFFFFFF, 0x7FFFFFFF, 0xFF0FFF0F].map some := by decide

theorem test_nor_vectors :
    resultsFor 0xAF000213#32 aluPairs =
      [0x00000000, 0x80000000, 0xFFFFFFFE, 0x7FFFFFFF, 0x000F000F].map some := by decide

theorem test_xnor_vectors :
    resultsFor 0x9F000213#32 aluPairs =
      [0x00000001, 0x80000001, 0xFFFFFFFE, 0xFFFFFFFF, 0x00FF00FF].map some := by decide

/-- A source that is also the destination is read before it is written (00_scope.md R8). -/
theorem test_add_same_register :
    regOf (runWord 0x3F000111#32 (machineWith 0x40 [(1, 0x40000000)] [])) 1 = some 0x80000000#32 := by decide

/-! ### ALU-I: section 3.2, four cases each -/

/-- R3 after an ALU-I word of R1, R3 with each register value and immediate of section 3.2. -/
def resultsImm (top : BitVec 8) (cases : List (Word × Imm)) : List (Option Word) :=
  cases.map fun c => regOf (runWord (top ++ c.2 ++ 0x13#8) (machineWith 0x40 [(1, c.1)] [])) 3

/-- The cases of section 3.2. -/
def aluImmCases : List (Word × Imm) := [(0x00010000, 0xFFFF), (0x12345678, 0x8000), (0, 0x7FFF), (0xFFFFFFFF, 1)]

theorem test_addi_vectors :
    resultsImm 0x3B#8 aluImmCases = [0x0000FFFF, 0x1233D678, 0x00007FFF, 0x00000000].map some := by decide

theorem test_subi_vectors :
    resultsImm 0x2B#8 aluImmCases = [0x00010001, 0x1234D678, 0xFFFF8001, 0xFFFFFFFE].map some := by decide

theorem test_andi_vectors :
    resultsImm 0x7B#8 aluImmCases = [0x00010000, 0x12340000, 0x00000000, 0x00000001].map some := by decide

theorem test_ori_vectors :
    resultsImm 0x6B#8 aluImmCases = [0xFFFFFFFF, 0xFFFFD678, 0x00007FFF, 0xFFFFFFFF].map some := by decide

theorem test_xori_vectors :
    resultsImm 0x5B#8 aluImmCases = [0xFFFEFFFF, 0xEDCBD678, 0x00007FFF, 0xFFFFFFFE].map some := by decide

theorem test_nandi_vectors :
    resultsImm 0xBB#8 aluImmCases = [0xFFFEFFFF, 0xEDCBFFFF, 0xFFFFFFFF, 0xFFFFFFFE].map some := by decide

theorem test_nori_vectors :
    resultsImm 0xAB#8 aluImmCases = [0x00000000, 0x00002987, 0xFFFF8000, 0x00000000].map some := by decide

theorem test_xnori_vectors :
    resultsImm 0x9B#8 aluImmCases = [0x00010000, 0x12342987, 0xFFFF8000, 0x00000001].map some := by decide

/-- Section 3.2: MVHI drops what the register held (92_eei_decisions.md D13). -/
theorem test_mvhi :
    regOf (runWord 0xFBF0000A#32 (machineWith 0x40 [(10, 0x12345678)] [])) 10 = some 0xF0000000#32 ∧
    regOf (runWord 0xFB000004#32 (machineWith 0x40 [(4, 0xFFFFFFFF)] [])) 4 = some 0#32 := by decide

/-! ### LW and SW: section 3.3 -/

/-- A displacement, a negative displacement, an address sum that wraps to 0. -/
theorem test_lw_ram :
    regOf (runWord 0x09000813#32 (machineWith 0x40 [(1, 0x100)] [(0x108, 0xA)])) 3 = some 0xA#32 ∧
    regOf (runWord 0x09FFFCEF#32 (machineWith 0x40 [(14, 0x2000)] [(0x1FFC, 0x50)])) 15 = some 0x50#32 ∧
    regOf (runWord 0x09000413#32 (machineWith 0x40 [(1, 0xFFFFFFFC)] [(0, 0x77)])) 3 = some 0x77#32 := by decide

/-- The base register as destination; the device inputs are zeros above the draw. -/
theorem test_lw_same_register_and_devices :
    regOf (runWord 0x09000011#32 (machineWith 0x40 [(1, 0x100)] [(0x100, 3)])) 1 = some 3#32 ∧
    regOf (runWord 0x09001041#32 (machineWith 0x40 [(4, 0xF0000000)] [])) 1 =
      some ((Config.keyDraw 0).setWidth 32) ∧
    regOf (runWord 0x09001440#32 (machineWith 0x40 [(4, 0xF0000000)] [])) 0 =
      some ((Config.switchDraw 0).setWidth 32) := ⟨by decide, rfl, rfl⟩

/-- The whole word is replaced, the word is marked, no register changes. -/
theorem test_sw_ram :
    ramOf (runWord 0x08000821#32 (machineWith 0x40 [(1, 0x100), (2, 0xDEADBEEF)] [])) 0x108 =
      some 0xDEADBEEF#32 ∧
    (stateOf (runWord 0x08000821#32 (machineWith 0x40 [(1, 0x100), (2, 0xDEADBEEF)] []))).map (·.dirty) =
      some [0x42] ∧
    ramOf (runWord 0x08000011#32 (machineWith 0x40 [(1, 0x100)] [])) 0x100 = some 0x100#32 ∧
    ramOf (runWord 0x08FFFCFE#32 (machineWith 0x40 [(14, 0x2000), (15, 0x50)] [])) 0x1FFC = some 0x50#32 := by
  decide

/-- HEX keeps bits 15:0, LEDR bits 9:0; the RAM is unchanged. -/
theorem test_sw_devices :
    (stateOf (runWord 0x08000034#32 (machineWith 0x40 [(4, 0xF0000000), (3, 0x1234ABCD)] []))).map
      (fun t => (t.hex, t.ledr, t.dirty)) = some (0xABCD#16, 0#10, []) ∧
    (stateOf (runWord 0x08000434#32 (machineWith 0x40 [(4, 0xF0000000), (3, 0xFFFFFFFF)] []))).map
      (fun t => (t.hex, t.ledr, t.dirty)) = some (0#16, 0x3FF#10, []) := by decide

/-- The faults of section 3.3, alignment before the map, each with what it records. -/
theorem test_lw_faults :
    runWord 0x09000213#32 (machineWith 0x40 [(1, 0x100)] []) = .fault (.misalignedData 0x40 0x102) ∧
    runWord 0x09000013#32 (machineWith 0x40 [(1, 0x2000)] []) = .fault (.unmappedAddress 0x40 0x2000 .load) ∧
    runWord 0x09000013#32 (machineWith 0x40 [(1, 0xF0000000)] []) =
      .fault (.unmappedAddress 0x40 0xF0000000 .load) ∧
    runWord 0x09000013#32 (machineWith 0x40 [(1, 0xF0000008)] []) =
      .fault (.unmappedAddress 0x40 0xF0000008 .load) ∧
    runWord 0x09000013#32 (machineWith 0x40 [(1, 0x2002)] []) = .fault (.misalignedData 0x40 0x2002) :=
  ⟨rfl, rfl, rfl, rfl, rfl⟩

/-- KEY cannot be written; a misaligned device address is misaligned first. -/
theorem test_sw_faults :
    runWord 0x08001021#32 (machineWith 0x40 [(1, 0xF0000000)] []) =
      .fault (.unmappedAddress 0x40 0xF0000010 .store) ∧
    runWord 0x08000221#32 (machineWith 0x40 [(1, 0xF0000000)] []) = .fault (.misalignedData 0x40 0xF0000002) :=
  ⟨rfl, rfl⟩

/-! ### CMP-R: section 3.4, six pairs each -/

/-- The pairs of section 3.4, the last three apart under an unsigned reading. -/
def cmpPairs : List (Word × Word) :=
  [(5, 5), (3, 5), (5, 3), (0xFFFFFFFF, 1), (1, 0xFFFFFFFF), (0x80000000, 0x7FFFFFFF)]

theorem test_f_vectors : resultsFor 0x3E000213#32 cmpPairs = [0, 0, 0, 0, 0, 0].map some := by decide

theorem test_eq_vectors : resultsFor 0xCE000213#32 cmpPairs = [1, 0, 0, 0, 0, 0].map some := by decide

theorem test_lt_vectors : resultsFor 0xDE000213#32 cmpPairs = [0, 1, 0, 1, 0, 1].map some := by decide

theorem test_lte_vectors : resultsFor 0x2E000213#32 cmpPairs = [1, 1, 0, 1, 0, 1].map some := by decide

theorem test_t_vectors : resultsFor 0xFE000213#32 cmpPairs = [1, 1, 1, 1, 1, 1].map some := by decide

theorem test_ne_vectors : resultsFor 0x0E000213#32 cmpPairs = [0, 1, 1, 1, 1, 1].map some := by decide

theorem test_gte_vectors : resultsFor 0x1E000213#32 cmpPairs = [1, 0, 1, 0, 1, 0].map some := by decide

theorem test_gt_vectors : resultsFor 0xEE000213#32 cmpPairs = [0, 0, 1, 0, 1, 0].map some := by decide

/-! ### CMP-I: section 3.5, eight cases each -/

/-- The cases of section 3.5. -/
def cmpImmCases : List (Word × Imm) :=
  [(5, 5), (4, 5), (6, 5), (0xFFFFFFFF, 0xFFFF), (0x0000FFFF, 0xFFFF), (0xFFFFFFFE, 0xFFFF), (0, 0x8000),
    (0x80000000, 0x8000)]

theorem test_fi_vectors : resultsImm 0x3A#8 cmpImmCases = [0, 0, 0, 0, 0, 0, 0, 0].map some := by decide

theorem test_eqi_vectors : resultsImm 0xCA#8 cmpImmCases = [1, 0, 0, 1, 0, 0, 0, 0].map some := by decide

theorem test_lti_vectors : resultsImm 0xDA#8 cmpImmCases = [0, 1, 0, 0, 0, 1, 0, 1].map some := by decide

theorem test_ltei_vectors : resultsImm 0x2A#8 cmpImmCases = [1, 1, 0, 1, 0, 1, 0, 1].map some := by decide

theorem test_ti_vectors : resultsImm 0xFA#8 cmpImmCases = [1, 1, 1, 1, 1, 1, 1, 1].map some := by decide

theorem test_nei_vectors : resultsImm 0x0A#8 cmpImmCases = [0, 1, 1, 0, 1, 1, 1, 1].map some := by decide

theorem test_gtei_vectors : resultsImm 0x1A#8 cmpImmCases = [1, 0, 1, 1, 1, 0, 1, 0].map some := by decide

theorem test_gti_vectors : resultsImm 0xEA#8 cmpImmCases = [0, 0, 1, 0, 1, 0, 1, 0].map some := by decide

/-! ### BRANCH: section 3.6 -/

/-- Whether a branch of displacement 3 at 0x40 goes to 0x50 (1) or 0x44 (0), for each pair in R1 and R2. -/
def takenFor (w : Word) (pairs : List (Word × Word)) : List (Option Nat) :=
  pairs.map fun p =>
    match pcOf (runWord w (machineWith 0x40 [(0, 0x55), (1, p.1), (2, p.2)] [])) with
    | some pc => if pc = 0x50#32 then some 1 else if pc = 0x44#32 then some 0 else none
    | none => none

theorem test_bf_vectors : takenFor 0x30000321#32 cmpPairs = [0, 0, 0, 0, 0, 0].map some := by decide

theorem test_beq_vectors : takenFor 0xC0000321#32 cmpPairs = [1, 0, 0, 0, 0, 0].map some := by decide

theorem test_blt_vectors : takenFor 0xD0000321#32 cmpPairs = [0, 1, 0, 1, 0, 1].map some := by decide

theorem test_blte_vectors : takenFor 0x20000321#32 cmpPairs = [1, 1, 0, 1, 0, 1].map some := by decide

theorem test_bt_vectors : takenFor 0xF0000321#32 cmpPairs = [1, 1, 1, 1, 1, 1].map some := by decide

theorem test_bne_vectors : takenFor 0x00000321#32 cmpPairs = [0, 1, 1, 1, 1, 1].map some := by decide

theorem test_bgte_vectors : takenFor 0x10000321#32 cmpPairs = [1, 0, 1, 0, 1, 0].map some := by decide

theorem test_bgt_vectors : takenFor 0xE0000321#32 cmpPairs = [0, 0, 1, 0, 1, 0].map some := by decide

/-- The values of R1 for the compare-with-zero forms; R0 holds 0x55 (92_eei_decisions.md D12). -/
def zeroPairs : List (Word × Word) := [(0, 0), (1, 0), (0xFFFFFFFF, 0), (0x80000000, 0), (0x7FFFFFFF, 0)]

theorem test_beqz_vectors : takenFor 0x80000301#32 zeroPairs = [1, 0, 0, 0, 0].map some := by decide

theorem test_bltz_vectors : takenFor 0x90000301#32 zeroPairs = [0, 0, 1, 1, 0].map some := by decide

theorem test_bltez_vectors : takenFor 0x60000301#32 zeroPairs = [1, 0, 1, 1, 0].map some := by decide

theorem test_bnez_vectors : takenFor 0x40000301#32 zeroPairs = [0, 1, 1, 1, 1].map some := by decide

theorem test_bgtez_vectors : takenFor 0x50000301#32 zeroPairs = [1, 1, 0, 0, 1].map some := by decide

theorem test_bgtz_vectors : takenFor 0xA0000301#32 zeroPairs = [0, 1, 0, 0, 1].map some := by decide

/-- The targets of section 3.6. -/
theorem test_branch_targets :
    [(0x40#32, 0x0003#16), (0x40#32, 0x0000#16), (0x40#32, 0xFFFF#16), (0x54#32, 0xFFFD#16), (0x54#32, 0xFFFE#16),
        (0x40#32, 0x7FFF#16), (0x40#32, 0x8000#16), (0x1FFC#32, 0x0000#16)].map (fun c => branchTarget c.1 c.2) =
      [0x50#32, 0x44#32, 0x40#32, 0x4C#32, 0x50#32, 0x00020040#32, 0xFFFE0044#32, 0x2000#32] := by decide

/-- A branch writes no register. -/
theorem test_branch_writes_no_register :
    (stateOf (runWord 0xF0FFFF00#32 (machineWith 0x40 [(1, 7)] []))).map (fun t => (t.pc, t.regs)) =
      some (0x40#32, (machineWith 0x40 [(1, 7)] []).regs) := by decide

/-! ### JAL: section 3.7 -/

/-- Link and target; the target from the old R1 when RD is RS1 (92_eei_decisions.md D14). -/
theorem test_jal :
    (stateOf (runWord 0x0100180F#32 (machineWith 0x4C [] []))).map (fun t => (t.readReg 15, t.pc)) =
      some (0x50#32, 0x60#32) ∧
    (stateOf (runWord 0x01FFFF11#32 (machineWith 0x40 [(1, 0x100)] []))).map (fun t => (t.readReg 1, t.pc)) =
      some (0x44#32, 0xFC#32) ∧
    (stateOf (runWord 0x01FFFF12#32 (machineWith 0x40 [] []))).map (fun t => (t.readReg 2, t.pc)) =
      some (0x44#32, 0xFFFFFFFC#32) := by decide

/-- A bad target completes, with the link written. -/
theorem test_jal_bad_target :
    (stateOf (runWord 0x01000019#32 (machineWith 0x40 [(1, 0x42)] []))).map (fun t => (t.readReg 9, t.pc)) =
      some (0x44#32, 0x42#32) := by decide

/-! ### Fetching (20_memory.md R49) -/

/-- The fetch faults in their order, and a reserved word. -/
theorem test_fetch_faults :
    step (machineWith 0x2002 [] []) = .fault (.misalignedFetch 0x2002) ∧
    step (machineWith 0x2000 [] []) = .fault (.fetchOutsideRam 0x2000) ∧
    step (machineWith 0xF0000000 [] []) = .fault (.fetchOutsideRam 0xF0000000) ∧
    runWord 0x02000000#32 (machineWith 0x40 [] []) = .fault (.reservedEncoding 0x40 0x02000000) :=
  ⟨rfl, rfl, rfl, rfl⟩

/-- Program P6: a word stored to is not fetched. -/
theorem test_fetch_of_modified_word :
    (stateOf (runWord 0x08004821#32 (machineWith 0x40 [(2, 0x3F000213)] []))).map
      (fun t => (step { t with pc := 0x48 } : Result)) = some (.fault (.fetchOfModifiedWord 0x48)) := rfl

/-! ### Pseudo-instructions and the assembler: section 1 -/

/-- Section 1.2: the words of the expansions. -/
theorem test_pseudo_words :
    (Pseudo.expand (.b 0xFFFF)).map encode = [0xC0FFFF66#32] ∧
    (Pseudo.expand (.not 1 3)).map encode = [0xBF000113#32] ∧
    (Pseudo.expand (.ble 3 2 1)).map encode = [0x2E000216#32, 0x40000306#32] ∧
    (Pseudo.expand (.bge 3 2 1)).map encode = [0x1E000216#32, 0x40000306#32] ∧
    (Pseudo.expand (.call 0x18 0)).map encode = [0x0100180F#32] ∧
    (Pseudo.expand .ret).map encode = [0x010000F9#32] := by decide

/-- Section 1.3: `0xffff` and `-1` give the same word; program P1's loop with a label for its target. -/
theorem test_assemble_words :
    assembleWords .wordIndex [.orig "0x40", .op "ADDI" [.plain "0xffff", .plain "R1", .plain "R3"],
      .op "addi" [.plain "-1", .plain "R1", .plain "R3"]] = .ok [(17, 0x3BFFFF13#32), (16, 0x3BFFFF13#32)] ∧
    assembleWords .wordIndex [.orig "0x4C", .label "loop", .op "ADD" [.plain "R1", .plain "R0", .plain "R0"],
      .op "SUBI" [.plain "1", .plain "a1", .plain "A1"], .op "BNEZ" [.plain "loop", .plain "R1"]] =
      .ok [(21, 0x40FFFD01#32), (20, 0x2B000111#32), (19, 0x3F000100#32)] := ⟨rfl, rfl⟩

/-- Program P3's call by a label, a label before its definition, `.WORD` and `.NAME`. -/
theorem test_assemble_labels :
    assembleWords .wordIndex [.nameDef "STACK" "0x2000", .orig "0x44",
      .op "ADDI" [.plain "STACK", .plain "R12", .plain "SP"], .op "CALL" [.indexed "twice" "R12"], .orig "0x58",
      .label "twice", .op "RET" [], .word "-4", .word "twice"] =
      .ok [(24, 0x58#32), (23, 0xFFFFFFFC#32), (22, 0x010000F9#32), (18, 0x010016CF#32), (17, 0x3B2000CE#32)] := rfl

/-- What the assembler refuses, each by name. -/
theorem test_assemble_refusals :
    assembleWords .wordIndex [.op "RET" []] = .error .noOrigin ∧
    assembleWords .wordIndex [.orig "0x40", .op "PUSH" []] = .error (.unknownMnemonic "PUSH") ∧
    assembleWords .wordIndex [.orig "0x40", .op "RET" [.plain "R1"]] = .error (.wrongOperands "RET") ∧
    assembleWords .wordIndex [.orig "0x40", .label "fp"] = .error (.reservedLabel "fp") ∧
    assembleWords .wordIndex [.orig "0x40", .label "x", .label "x"] = .error (.duplicateLabel "x") ∧
    assembleWords .wordIndex [.orig "0x40", .op "B" [.plain "x"]] = .error (.undefinedLabel "x") :=
  ⟨rfl, rfl, rfl, rfl, rfl, rfl⟩

/-- A reserved word is refused as a label in any letter case (93_implementation_defined.md section 1), and a name's
value outside the range of `.WORD` is refused (section 2 there). -/
theorem test_assemble_refused_names :
    assembleWords .wordIndex [.orig "0x40", .label "Ra"] = .error (.reservedLabel "Ra") ∧
    assembleWords .wordIndex [.nameDef "Add" "1"] = .error (.reservedLabel "Add") ∧
    assembleWords .wordIndex [.nameDef "X" "0x100000000", .orig "0x40", .word "X"] =
      .error (.outOfRange 0x100000000) ∧
    assembleWords .wordIndex [.nameDef "X" "0xFFFFFFFF", .orig "0x40", .word "X"] =
      .ok [(16, 0xFFFFFFFF#32)] := ⟨rfl, rfl, rfl, rfl⟩

/-- Numbers and addresses out of range. -/
theorem test_assemble_ranges :
    numberField 65536 = .error (.outOfRange 65536) ∧ numberField (-32769) = .error (.outOfRange (-32769)) ∧
    branchField 0x42 0x40 = .error (.unreachable 0x42) ∧ numberOf "0x" = .error (.notANumber "0x") ∧
    registerOf "Sp" = .error (.notARegister "Sp") ∧
    placeWord [] 0x2000 0 = .error (.badAddress 0x2000) ∧
    placeWord [(16, 0)] 0x40 0 = .error (.occupied 0x40) := ⟨rfl, rfl, rfl, rfl, rfl, rfl, rfl⟩

/-! ### A case for the hypotheses of each statement of Certificates/Slice0/Obligations.lean, named after it -/

/-- Whether an answer is a next state. -/
def completes (o : Result) : Bool := (stateOf o).isSome

/-- At the last word of the RAM, holding `SW 8(R1),R2`. -/
def storer : State := machineWith 0x1FFC [(1, 0x100), (2, 0xDEADBEEF)] [(0x1FFC, 0x08000821)]

/-- At 0x40, holding `ADD R2,R1,R3`, with one word marked as stored to. -/
def adder : State := { machineWith 0x40 [(1, 3), (2, 4)] [(0x40, 0x3F000213), (0x108, 5)] with dirty := [0x42] }

/-- R1 with a value, for LW and SW of displacement 0. -/
def at1 (v : Word) : State := machineWith 0x40 [(1, v)] []

theorem witness_EncodeInvertsDecode : decode 0x3F000213#32 = .ok (.add 2 1 3) := by decide

theorem witness_DecoderAgreesWithTheTable :
    (⟨"BEQZ", 0x80000000#32, 0xFF0000F0#32⟩ : Row) ∈ opcodeRows ∧
    Row.accepts ⟨"BEQZ", 0x80000000#32, 0xFF0000F0#32⟩ 0x80000301#32 = true ∧
    decode 0x80000301#32 = .ok (.beqz 3 1) ∧ (Instr.beqz 3 1).mnemonic = "BEQZ" := by decide

theorem witness_NoWordMatchesTwoRows :
    (⟨"BNE", 0x00000000#32, 0xFF000000#32⟩ : Row) ∈ opcodeRows ∧
    Row.accepts ⟨"BNE", 0x00000000#32, 0xFF000000#32⟩ 0x00000000#32 = true := by decide

theorem witness_ReservedWordFaults :
    fetch 0x40#32 (machineWith 0x40 [] [(0x40, 0x02000000)]) = .ok 0x02000000#32 ∧
    wellFormedWord 0x02000000#32 = false ∧ fetch 0x40#32 adder = .ok 0x3F000213#32 ∧
    wellFormedWord 0x3F000213#32 = true := ⟨rfl, by decide, rfl, by decide⟩

theorem witness_WordsThatOnlyAdvance :
    branchOf (.bt 0 1 2) adder = some (0, true) ∧ branchOf (.bne 0 0 0) adder = some (0, false) := by decide

theorem witness_StepRunsTheDecodedInstruction :
    storer.pc.toNat % 4 = 0 ∧ storer.pc.toNat < 8192 ∧ storer.pc.toNat / 4 ∉ storer.dirty ∧
    decode (storer.mem.readWord storer.pc.toNat) = .ok (.sw 8 1 2) := by decide

/-- The four clauses where they meet: 0x1FFE, 0x2000, a marked 0x1FFC, an unmarked 0x1FFC. -/
theorem witness_FetchFaultsComeFirst :
    (0x1FFE#32).toNat % 4 ≠ 0 ∧ step { storer with pc := 0x1FFE } = .fault (.misalignedFetch 0x1FFE) ∧
    0x1FFC < (0x2000#32).toNat ∧ step { storer with pc := 0x2000 } = .fault (.fetchOutsideRam 0x2000) ∧
    step { storer with dirty := [0x7FF] } = .fault (.fetchOfModifiedWord 0x1FFC) ∧
    fetch storer.pc storer = .ok 0x08000821#32 := ⟨by decide, rfl, by decide, rfl, rfl, rfl⟩

/-- Both sides: a step that is defined, one whose store is not. -/
theorem witness_StepCompletesExactlyWhenDefined :
    (stepDefined storer ∧ completes (step storer) = true) ∧
    accessDefined (.sw 8 1 2) { storer with regs := (at1 0x101).regs } = false ∧
    completes (step { storer with regs := (at1 0x101).regs }) = false :=
  ⟨⟨⟨by decide, by decide, by decide, .sw 8 1 2, by decide, by decide⟩, by decide⟩, by decide, by decide⟩

/-- Each kind of fault; the two directions of the last. -/
theorem witness_FaultsAreThoseListed :
    step { storer with pc := 1 } = .fault (.misalignedFetch 1) ∧
    step { storer with pc := 0x2000 } = .fault (.fetchOutsideRam 0x2000) ∧
    step { storer with dirty := [0x7FF] } = .fault (.fetchOfModifiedWord 0x1FFC) ∧
    runWord 0xFFFFFFFF#32 adder = .fault (.reservedEncoding 0x40 0xFFFFFFFF) ∧
    runWord 0x09000013#32 (at1 0x1FFD) = .fault (.misalignedData 0x40 0x1FFD) ∧
    runWord 0x08000021#32 (at1 0x1FFF) = .fault (.misalignedData 0x40 0x1FFF) ∧
    runWord 0x09000013#32 (at1 0x2000) = .fault (.unmappedAddress 0x40 0x2000 .load) ∧
    runWord 0x08000021#32 (at1 0x2000) = .fault (.unmappedAddress 0x40 0x2000 .store) :=
  ⟨rfl, rfl, rfl, rfl, rfl, rfl, rfl, rfl⟩

/-- Both sides, for LW and SW. -/
theorem witness_InstructionsCompleteExactlyWhenTheirAccessIsDefined :
    accessDefined (.lw 0 1 3) (at1 0x1FFC) = true ∧ completes (exec (.lw 0 1 3) (at1 0x1FFC)) = true ∧
    accessDefined (.sw 0 1 3) (at1 0xF0000010) = false ∧
    completes (exec (.sw 0 1 3) (at1 0xF0000010)) = false := by decide

/-- A safe run of one step, and a run that stops since its first state is not defined. -/
theorem witness_SafeRunsComplete :
    runsSafely 1 adder ∧ (∃ t, Host.Core.run core 1 adder = .next t) ∧
    Host.Core.run core 1 { adder with pc := 2 } = .fault (.misalignedFetch 2) :=
  ⟨⟨⟨by decide, by decide, by decide, .add 2 1 3, by decide, by decide⟩, fun _ _ => trivial⟩, ⟨_, rfl⟩, rfl⟩

theorem witness_PlacedWordRunsNext :
    storer.pc.toNat % 4 = 0 ∧ storer.pc.toNat < 8192 ∧ decode 0x0100180F#32 = .ok (.jal 0x18 0 15) := by decide

/-- An image of 17 words, the last of them `ADD R2,R1,R3`. -/
def image17 : List Word := List.replicate 16 0#32 ++ [0x3F000213#32]

theorem witness_ResetStartsAtByteAddress40 :
    16 < image17.length ∧ fetch 0x40#32 (boot StartValues.chosen image17) = .ok 0x3F000213#32 :=
  ⟨by decide, rfl⟩

theorem witness_RunStartsWithTheImage :
    (boot StartValues.chosen image17).ramWord 16 = 0x3F000213#32 ∧
    (boot StartValues.chosen image17).ramWord 2047 = 0#32 := by decide

theorem witness_StepKeepsTheInvariant : storer.inv ∧ ∃ t, step storer = .next t :=
  ⟨by decide, _, rfl⟩

theorem witness_StepKeepsUnwrittenWords : codeIntact storer.ramWord storer ∧ ∃ t, step storer = .next t :=
  ⟨fun _ _ _ => rfl, _, rfl⟩

theorem witness_RunsExecuteOnlyTheImage :
    ∃ t, Host.Core.run core 1 (boot StartValues.chosen image17) = .next t ∧ fetch t.pc t = .ok 0#32 :=
  ⟨_, rfl, rfl⟩

/-- A store to the RAM and one to a device. -/
theorem witness_WrittenBitsFollowStores :
    (stateOf (exec (.sw 0 1 2) (at1 0x1FFC))).map (·.dirty) = some [0x7FF] ∧
    (stateOf (exec (.sw 0 1 2) (at1 0xF0000004))).map (·.dirty) = some [] := by decide

theorem witness_StoredWordIsDataOnly :
    ∃ t u : State, exec (.sw 0 1 2) (at1 0x1FFC) = .next t ∧
      ((at1 0x1FFC).readReg 1 + (0 : Imm).signExtend 32).toNat < 8192 ∧
      (∀ k ∈ t.dirty, k ∈ u.dirty) ∧ u.pc = (at1 0x1FFC).readReg 1 + (0 : Imm).signExtend 32 ∧
      t.readReg 1 + (0 : Imm).signExtend 32 = (at1 0x1FFC).readReg 1 + (0 : Imm).signExtend 32 :=
  ⟨_, { machineWith 0x1FFC [] [] with dirty := [0x7FF] }, rfl, by decide, by decide, by decide, rfl⟩

/-- Bits at the ends of each range. -/
theorem witness_ImmediateExtension :
    [0, 15, 16, 31].map (sext32 0x8001#16).getLsbD = [true, true, true, true] ∧
    [0, 1, 2, 17, 18, 31].map (scaledImm 0x8001#16).getLsbD = [false, false, true, true, true, true] := by decide

/-- Bit 15 clear and set, at the ends of the low half. -/
theorem witness_ConstantsCanBeBuilt :
    (0x12347FFF#32).getLsbD 15 = false ∧ (0x00000000#32).getLsbD 15 = false ∧
    (0x12348000#32).getLsbD 15 = true ∧ (0xFFFFFFFF#32).getLsbD 15 = true := by decide

/-- Every clause of LW at its ends. -/
theorem witness_LoadWord :
    [0x1FFD#32, 0x0000#32, 0x1FFC#32, 0x2000#32, 0xF000000C#32, 0xF0000010#32, 0xF0000014#32, 0xF0000018#32].map
      (fun v => completes (exec (.lw 0 1 3) (at1 v))) = [false, true, true, false, false, true, true, false] := by
  decide

/-- Every clause of SW at its ends. -/
theorem witness_StoreWord :
    [0x1FFD#32, 0x0000#32, 0x1FFC#32, 0x2000#32, 0xEFFFFFFC#32, 0xF0000000#32, 0xF0000004#32, 0xF0000008#32].map
      (fun v => completes (exec (.sw 0 1 3) (at1 v))) = [false, true, true, false, false, true, true, false] := by
  decide

theorem witness_InputReadingsHaveZeroUpperBits :
    completes (exec (.lw 0x10 1 3) (at1 0xF0000000)) = true ∧
    (at1 0xF0000000).readReg 1 + (0x10#16).signExtend 32 = 0xF0000010#32 ∧
    completes (exec (.lw 0x14 1 3) (at1 0xF0000000)) = true ∧
    (at1 0xF0000000).readReg 1 + (0x14#16).signExtend 32 = 0xF0000014#32 := by decide

/-- The three cases: HEX, LEDR, no event. -/
theorem witness_OutputsFollowStoreEvents :
    outputEvent (.sw 0 1 1) (at1 0xF0000000) = some (.hex 0x0000) ∧
    outputEvent (.sw 0 1 1) (at1 0xF0000004) = some (.ledr 4) ∧ outputEvent (.sw 0 1 1) (at1 0x100) = none ∧
    [0xF0000000#32, 0xF0000004#32, 0x100#32].map (fun v => completes (exec (.sw 0 1 1) (at1 v))) =
      [true, true, true] := by decide

/-- An instruction that is no SW; an SW and an LW from the RAM, which consume no draw. -/
theorem witness_OnlyStoresChangeMemoryAndDevices :
    completes (exec (.add 2 1 3) adder) = true ∧ (∀ imm rs1 rs2, Instr.add 2 1 3 ≠ .sw imm rs1 rs2) ∧
    completes (exec (.sw 0 1 2) (at1 0x1FFC)) = true ∧
    (∀ imm rs1 rd, Instr.sw 0 1 2 = .lw imm rs1 rd → (at1 0x1FFC).readReg rs1 + imm.signExtend 32 ≠ 0xF0000010#32 ∧
      (at1 0x1FFC).readReg rs1 + imm.signExtend 32 ≠ 0xF0000014#32) ∧
    completes (exec (.lw 0 1 3) (at1 0x1FFC)) = true ∧
    ∀ imm rs1 rd, Instr.lw 0 1 3 = .lw imm rs1 rd → (at1 0x1FFC).readReg rs1 + imm.signExtend 32 ≠ 0xF0000010#32 ∧
      (at1 0x1FFC).readReg rs1 + imm.signExtend 32 ≠ 0xF0000014#32 :=
  ⟨by decide, nofun, by decide, nofun, by decide, fun _ _ _ h => by cases h; decide⟩

theorem witness_BranchTargets :
    (0x40#32).toNat % 4 = 0 ∧ branchTarget 0x40 0xFFFF = 0x40#32 ∧ branchTarget 0x40 0x7FFF ≠ 0x40#32 := by decide

/-- A taken branch, a JAL, a branch not taken. -/
theorem witness_ProgramCounterAfterEachInstruction :
    branchOf (.bt 3 0 0) adder = some (3, true) ∧ completes (exec (.bt 3 0 0) adder) = true ∧
    completes (exec (.jal 3 1 9) adder) = true ∧ branchOf (.bne 3 1 1) adder = some (3, false) ∧
    completes (exec (.bne 3 1 1) adder) = true := by decide

/-- An aligned result, and a JAL of a misaligned base. -/
theorem witness_OnlyJalMisalignsTheProgramCounter :
    adder.pc.toNat % 4 = 0 ∧ pcOf (exec (.add 2 1 3) adder) = some 0x44#32 ∧
    pcOf (exec (.jal 0 1 9) adder) = some 3#32 ∧ (adder.readReg 1).toNat % 4 ≠ 0 := by decide

/-- A misaligned and an outside target. -/
theorem witness_BadJumpFaultsAtTheNextFetch :
    pcOf (exec (.jal 0 1 9) (at1 0x42)) = some 0x42#32 ∧ pcOf (exec (.jal 0 1 9) (at1 0x2000)) = some 0x2000#32 := by
  decide

/-- A branch to itself, and a JAL to itself whose register already holds the link. -/
theorem witness_EndsOfRunsAreSelfLoops :
    endState (machineWith 0x40 [] [(0x40, 0xC0FFFF66)]) ∧
    endState (machineWith 0x40 [(1, 0x40), (9, 0x44)] [(0x40, 0x01000019)]) :=
  ⟨⟨_, rfl, rfl, rfl, rfl, rfl, rfl⟩, ⟨_, rfl, rfl, rfl, rfl, rfl, rfl⟩⟩

theorem witness_OnlyTheNamedRegisterIsWritten :
    completes (exec (.add 2 1 3) adder) = true ∧ destination (.add 2 1 3) ≠ some 4 := by decide

/-- A register file that agrees on R1 and R2 and on no other register. -/
theorem witness_OnlyTheNamedRegistersAreRead :
    let regs := ((Vector.replicate 16 (0x55#32)).set 1 3#32).set 2 4#32
    (∀ r ∈ sources (.add 2 1 3), adder.regs[r] = regs[r]) ∧ adder.regs ≠ regs ∧
    completes (exec (.add 2 1 3) adder) = true := by decide

/-- The stack pointer at both ends of its range. -/
theorem witness_PushThenPop :
    (5 : Reg) ≠ 14 ∧ (6 : Reg) ≠ 14 ∧
    [4#32, 0x2000#32].map (fun sp => ((machineWith 0x40 [(14, sp)] []).readReg 14).toNat) = [4, 0x2000] ∧
    4 % 4 = 0 ∧ 0x2000 % 4 = 0 := ⟨by decide, by decide, rfl, rfl, rfl⟩

theorem witness_BranchFieldReachesItsLabel :
    branchField 0x4C 0x54 = .ok 0xFFFD#16 ∧ branchField 0 (4 * 2047) = .ok 0xF800#16 ∧
    branchField (4 * 2047) 0 = .ok 0x07FE#16 := ⟨rfl, rfl, rfl⟩

theorem witness_JalFieldReachesItsLabel :
    (machineWith 0x40 [] []).readReg 12 = 0#32 ∧
    jalTarget (machineWith 0x40 [] []) 12 (jalField jalLabelDefault (4 * 2047)) = 0x1FFC#32 ∧
    (jalField .literal 8191).toNat = 8191 := by decide

/-- Both ends of the accepted range, and a number of each sign. -/
theorem witness_NumericImmediates :
    [-32768, -1, 0, 65535].map (fun n => (numberField n).toOption) =
      [some 0x8000#16, some 0xFFFF#16, some 0#16, some 0xFFFF#16] := by decide

/-- A one-word program, its word at index 2047. -/
theorem witness_AssembledImageHas2048Words :
    assembleWords .wordIndex [.orig "0x1FFC", .op "RET" []] = .ok [(2047, 0x010000F9#32)] ∧
    assemble .wordIndex 0 [.orig "0x1FFC", .op "RET" []] =
      .ok ((List.range ramWords).map (imageWord 0 [(2047, 0x010000F9#32)])) := by
  have h : assembleWords .wordIndex [.orig "0x1FFC", .op "RET" []] = .ok [(2047, 0x010000F9#32)] := rfl
  exact ⟨h, by simp only [assemble, h, Except.bind]⟩

/-- A number and a label, at both ends of the range and past them. -/
theorem witness_WordDirectiveValues :
    startsNumber "-2147483648".toList = true ∧ numberOf "-2147483648" = .ok (-2147483648) ∧
    wordOf [] "-2147483648" = .ok 0x80000000#32 ∧ wordOf [] "-2147483649" = .error (.outOfRange (-2147483649)) ∧
    startsNumber "X".toList = false ∧ valueOf [("X", 4294967295)] "X" = .ok 4294967295 ∧
    wordOf [("X", 4294967295)] "X" = .ok 0xFFFFFFFF#32 ∧
    wordOf [("X", 4294967296)] "X" = .error (.outOfRange 4294967296) := ⟨rfl, rfl, rfl, rfl, rfl, rfl, rfl, rfl⟩

/-- A mnemonic and a register name in mixed case, and a name that is neither. -/
theorem witness_ReservedWordsAreRefusedInAnyLetterCase :
    addSymbol [] "bGtEz" 0 = .error (.reservedLabel "bGtEz") ∧ addSymbol [] "r15" 0 = .error (.reservedLabel "r15") ∧
    addSymbol [] "r16" 0 = .ok [("r16", 0)] := ⟨rfl, rfl, rfl⟩

theorem witness_RegisterNames : registerOf "sp" = .ok 14 ∧ reservedWord "sp" = true := ⟨rfl, by decide⟩

end Sys2Proof.Tests
end

section
/-! PROOFS. The decoder against the instruction list (30_encoding.md R82): a word that decodes is the encoding of what
it decodes to, the row of an instruction's name accepts its encoding, and a word that a row accepts decodes. -/

namespace Sys2Proof

open Machine

/-! ### What each decoding form answers -/

theorem decodeR_ok {cell : Option (Reg → Reg → Reg → Instr)} {w : Word} {i : Instr} :
    decodeR cell w = .ok i ↔ ∃ mk, cell = some mk ∧ zeroOf w = 0#12 ∧ mk (regHigh w) (regMid w) (regLow w) = i := by
  cases cell with
  | none => simp [decodeR]
  | some mk => by_cases hz : zeroOf w = 0#12 <;> simp [decodeR, hz]

theorem decodeImm_ok {cell : Option (Imm → Reg → Reg → Instr)} {w : Word} {i : Instr} :
    decodeImm cell w = .ok i ↔ ∃ mk, cell = some mk ∧ mk (immOf w) (regMid w) (regLow w) = i := by
  cases cell <;> simp [decodeImm]

theorem decodeImmZero_ok {cell : Option (Imm → Reg → Instr)} {w : Word} {i : Instr} :
    decodeImmZero cell w = .ok i ↔ ∃ mk, cell = some mk ∧ regMid w = 0 ∧ mk (immOf w) (regLow w) = i := by
  cases cell with
  | none => simp [decodeImmZero]
  | some mk => by_cases hz : regMid w = 0 <;> simp [decodeImmZero, hz]

/-! ### The instruction of a table's cell is encoded with that cell's function (30_encoding.md R81) -/

theorem encode_aluRTable {fn : BitVec 4} {mk : Reg → Reg → Reg → Instr} (h : aluRTable fn = some mk) (a b c : Reg) :
    encode (mk a b c) = packR fn 0b1111#4 a b c := by
  unfold aluRTable at h
  split at h <;> cases h <;> rfl

theorem encode_cmpRTable {fn : BitVec 4} {mk : Reg → Reg → Reg → Instr} (h : cmpRTable fn = some mk) (a b c : Reg) :
    encode (mk a b c) = packR fn 0b1110#4 a b c := by
  unfold cmpRTable at h
  split at h <;> cases h <;> rfl

theorem encode_aluITable {fn : BitVec 4} {mk : Imm → Reg → Reg → Instr} (h : aluITable fn = some mk) (imm : Imm)
    (a b : Reg) : encode (mk imm a b) = packImm fn 0b1011#4 imm a b := by
  unfold aluITable at h
  split at h <;> cases h <;> rfl

theorem encode_cmpITable {fn : BitVec 4} {mk : Imm → Reg → Reg → Instr} (h : cmpITable fn = some mk) (imm : Imm)
    (a b : Reg) : encode (mk imm a b) = packImm fn 0b1010#4 imm a b := by
  unfold cmpITable at h
  split at h <;> cases h <;> rfl

theorem encode_branchTable {fn : BitVec 4} {mk : Imm → Reg → Reg → Instr} (h : branchTable fn = some mk) (imm : Imm)
    (a b : Reg) : encode (mk imm a b) = packImm fn 0b0000#4 imm a b := by
  unfold branchTable at h
  split at h <;> cases h <;> rfl

theorem encode_branchZeroTable {fn : BitVec 4} {mk : Imm → Reg → Instr} (h : branchZeroTable fn = some mk) (imm : Imm)
    (b : Reg) : encode (mk imm b) = packImm fn 0b0000#4 imm 0 b := by
  unfold branchZeroTable at h
  split at h <;> cases h <;> rfl

theorem onlyFnZero_eq_some {mk mk' : Imm → Reg → Reg → Instr} {w : Word} :
    onlyFnZero mk w = some mk' ↔ fnOf w = 0b0000#4 ∧ mk = mk' := by
  by_cases h : fnOf w = 0b0000#4 <;> simp [onlyFnZero, h]

/-! ### A word that decodes is the encoding of its instruction -/

theorem encode_of_decodeR {cell : Option (Reg → Reg → Reg → Instr)} {w : Word} {i : Instr} (h : decodeR cell w = .ok i)
    (hc : ∀ mk, cell = some mk → ∀ a b c, encode (mk a b c) = packR (fnOf w) (opcodeOf w) a b c) : encode i = w := by
  obtain ⟨mk, hmk, hz, rfl⟩ := decodeR_ok.mp h
  rw [hc mk hmk, packR_fields hz]

theorem encode_of_decodeImm {cell : Option (Imm → Reg → Reg → Instr)} {w : Word} {i : Instr}
    (h : decodeImm cell w = .ok i)
    (hc : ∀ mk, cell = some mk → ∀ imm a b, encode (mk imm a b) = packImm (fnOf w) (opcodeOf w) imm a b) :
    encode i = w := by
  obtain ⟨mk, hmk, rfl⟩ := decodeImm_ok.mp h
  rw [hc mk hmk, packImm_fields]

theorem encode_of_decodeImmZero {cell : Option (Imm → Reg → Instr)} {w : Word} {i : Instr}
    (h : decodeImmZero cell w = .ok i)
    (hc : ∀ mk, cell = some mk → ∀ imm b, encode (mk imm b) = packImm (fnOf w) (opcodeOf w) imm 0 b) :
    encode i = w := by
  obtain ⟨mk, hmk, hz, rfl⟩ := decodeImmZero_ok.mp h
  rw [hc mk hmk, ← hz, packImm_fields]

/-- LW, SW and JAL: the cell is there for the function 0000 alone. -/
theorem encode_of_decode_onlyFnZero {mk : Imm → Reg → Reg → Instr} {w : Word} {i : Instr}
    (h : decodeImm (onlyFnZero mk w) w = .ok i)
    (hc : ∀ imm a b, encode (mk imm a b) = packImm 0b0000#4 (opcodeOf w) imm a b) : encode i = w := by
  refine encode_of_decodeImm h fun mk' hmk => ?_
  obtain ⟨hfn, rfl⟩ := onlyFnZero_eq_some.mp hmk
  rw [hfn]
  exact hc

theorem encode_of_decodeAluI {w : Word} {i : Instr} (hop : opcodeOf w = 0b1011#4) (h : decodeAluI w = .ok i) :
    encode i = w := by
  unfold decodeAluI at h
  split at h
  case isTrue hfn =>
    refine encode_of_decodeImmZero h fun mk hmk => ?_
    cases hmk
    rw [hfn, hop]
    exact fun _ _ => rfl
  case isFalse => exact encode_of_decodeImm h fun mk hmk => hop ▸ encode_aluITable hmk

theorem encode_of_decodeBranch {w : Word} {i : Instr} (hop : opcodeOf w = 0b0000#4) (h : decodeBranch w = .ok i) :
    encode i = w := by
  unfold decodeBranch at h
  split at h
  case h_1 mk hmk =>
    refine encode_of_decodeImmZero h fun mk' hmk' => ?_
    cases hmk'
    exact hop ▸ encode_branchZeroTable hmk
  case h_2 => exact encode_of_decodeImm h fun mk hmk => hop ▸ encode_branchTable hmk

theorem encode_of_decode {w : Word} {i : Instr} (h : decode w = .ok i) : encode i = w := by
  unfold decode at h
  split at h
  case h_1 hop => exact encode_of_decodeBranch hop h
  case h_2 hop => exact encode_of_decode_onlyFnZero h (hop ▸ fun _ _ _ => rfl)
  case h_3 hop => exact encode_of_decode_onlyFnZero h (hop ▸ fun _ _ _ => rfl)
  case h_4 hop => exact encode_of_decode_onlyFnZero h (hop ▸ fun _ _ _ => rfl)
  case h_5 hop => exact encode_of_decodeImm h fun mk hmk => hop ▸ encode_cmpITable hmk
  case h_6 hop => exact encode_of_decodeAluI hop h
  case h_7 hop => exact encode_of_decodeR h fun mk hmk => hop ▸ encode_cmpRTable hmk
  case h_8 hop => exact encode_of_decodeR h fun mk hmk => hop ▸ encode_aluRTable hmk
  case h_9 => cases h

/-! ### The operands are the fields that the patterns name -/

@[simp] theorem readR_packR (fn op : BitVec 4) (a b c : Reg) : readR (packR fn op a b c) a b c :=
  ⟨zeroOf_packR .., (regHigh_packR ..).symm, (regMid_packR ..).symm, (regLow_packR ..).symm⟩

@[simp] theorem readI_packImm (fn op : BitVec 4) (imm : Imm) (a b : Reg) : readI (packImm fn op imm a b) imm a b :=
  ⟨(immOf_packImm ..).symm, (regMid_packImm ..).symm, (regLow_packImm ..).symm⟩

@[simp] theorem readS_packImm (fn op : BitVec 4) (imm : Imm) (a b : Reg) : readS (packImm fn op imm a b) imm a b :=
  ⟨(immOf_packImm ..).symm, (regMid_packImm ..).symm, (regLow_packImm ..).symm⟩

theorem operandsRead_encode (i : Instr) : operandsRead (encode i) i := by
  cases i <;> simp [operandsRead, encode]

/-! ### The rows of the list -/

/-- The row of an instruction's name accepts its encoding, whatever the instruction. -/
theorem tableRow_statement (i : Instr) : Laws.TableRow.Statement i :=
  match i with
  | .add .. => Laws.TableRow.add ..
  | .sub .. => Laws.TableRow.sub ..
  | .and .. => Laws.TableRow.and ..
  | .or .. => Laws.TableRow.or ..
  | .xor .. => Laws.TableRow.xor ..
  | .nand .. => Laws.TableRow.nand ..
  | .nor .. => Laws.TableRow.nor ..
  | .xnor .. => Laws.TableRow.xnor ..
  | .addi .. => Laws.TableRow.addi ..
  | .subi .. => Laws.TableRow.subi ..
  | .andi .. => Laws.TableRow.andi ..
  | .ori .. => Laws.TableRow.ori ..
  | .xori .. => Laws.TableRow.xori ..
  | .nandi .. => Laws.TableRow.nandi ..
  | .nori .. => Laws.TableRow.nori ..
  | .xnori .. => Laws.TableRow.xnori ..
  | .mvhi .. => Laws.TableRow.mvhi ..
  | .lw .. => Laws.TableRow.lw ..
  | .sw .. => Laws.TableRow.sw ..
  | .f .. => Laws.TableRow.f ..
  | .eq .. => Laws.TableRow.eq ..
  | .lt .. => Laws.TableRow.lt ..
  | .lte .. => Laws.TableRow.lte ..
  | .t .. => Laws.TableRow.t ..
  | .ne .. => Laws.TableRow.ne ..
  | .gte .. => Laws.TableRow.gte ..
  | .gt .. => Laws.TableRow.gt ..
  | .fi .. => Laws.TableRow.fi ..
  | .eqi .. => Laws.TableRow.eqi ..
  | .lti .. => Laws.TableRow.lti ..
  | .ltei .. => Laws.TableRow.ltei ..
  | .ti .. => Laws.TableRow.ti ..
  | .nei .. => Laws.TableRow.nei ..
  | .gtei .. => Laws.TableRow.gtei ..
  | .gti .. => Laws.TableRow.gti ..
  | .bf .. => Laws.TableRow.bf ..
  | .beq .. => Laws.TableRow.beq ..
  | .blt .. => Laws.TableRow.blt ..
  | .blte .. => Laws.TableRow.blte ..
  | .beqz .. => Laws.TableRow.beqz ..
  | .bltz .. => Laws.TableRow.bltz ..
  | .bltez .. => Laws.TableRow.bltez ..
  | .bt .. => Laws.TableRow.bt ..
  | .bne .. => Laws.TableRow.bne ..
  | .bgte .. => Laws.TableRow.bgte ..
  | .bgt .. => Laws.TableRow.bgt ..
  | .bnez .. => Laws.TableRow.bnez ..
  | .bgtez .. => Laws.TableRow.bgtez ..
  | .bgtz .. => Laws.TableRow.bgtz ..
  | .jal .. => Laws.TableRow.jal ..

theorem exists_row_of_decode {w : Word} {i : Instr} (h : decode w = .ok i) :
    ∃ row ∈ opcodeRows, row.mnemonic = i.mnemonic ∧ w &&& row.mask = row.value := by
  obtain ⟨row, hrow, hname, hacc⟩ := tableRow_statement i
  rw [encode_of_decode h] at hacc
  exact ⟨row, hrow, hname, by simpa [Row.accepts] using hacc⟩

theorem row_eq_of_mnemonic {r₁ r₂ : Row} (h₁ : r₁ ∈ opcodeRows) (h₂ : r₂ ∈ opcodeRows)
    (h : r₁.mnemonic = r₂.mnemonic) : r₁ = r₂ :=
  List.inj_on_of_nodup_map (f := Row.mnemonic) (by decide) h₁ h₂ h

/-! ### A word that a row accepts decodes -/

theorem exists_decodeR {v w : Word} {i : Instr} {cell : Option (Reg → Reg → Reg → Instr)} (hz : zeroOf w = zeroOf v)
    (h : decodeR cell v = .ok i) : ∃ j, decodeR cell w = .ok j := by
  obtain ⟨mk, hmk, hzero, -⟩ := decodeR_ok.mp h
  exact ⟨_, decodeR_ok.mpr ⟨mk, hmk, hz.trans hzero, rfl⟩⟩

theorem exists_decodeImm {v : Word} (w : Word) {i : Instr} {cell : Option (Imm → Reg → Reg → Instr)}
    (h : decodeImm cell v = .ok i) : ∃ j, decodeImm cell w = .ok j := by
  obtain ⟨mk, hmk, -⟩ := decodeImm_ok.mp h
  exact ⟨_, decodeImm_ok.mpr ⟨mk, hmk, rfl⟩⟩

theorem exists_decodeImmZero {v w : Word} {i : Instr} {cell : Option (Imm → Reg → Instr)} (hz : regMid w = regMid v)
    (h : decodeImmZero cell v = .ok i) : ∃ j, decodeImmZero cell w = .ok j := by
  obtain ⟨mk, hmk, hzero, -⟩ := decodeImmZero_ok.mp h
  exact ⟨_, decodeImmZero_ok.mpr ⟨mk, hmk, hz.trans hzero, rfl⟩⟩

/-- `w` has the function and the opcode of `v`, and its bits wherever the format these give has must-be-zero bits: bits
23:12 of format R, bits 7:4 of sub-forms I0 and S0 (30_encoding.md R84). -/
structure SameFixedBits (v w : Word) : Prop where
  fn : fnOf w = fnOf v
  opcode : opcodeOf w = opcodeOf v
  formatR : opcodeOf v = 0b1111#4 ∨ opcodeOf v = 0b1110#4 → zeroOf w = zeroOf v
  formatI0 : opcodeOf v = 0b1011#4 → fnOf v = 0b1111#4 → regMid w = regMid v
  formatS0 : opcodeOf v = 0b0000#4 → (branchZeroTable (fnOf v)).isSome = true → regMid w = regMid v

namespace SameFixedBits

variable {v w : Word} {i : Instr}

theorem onlyFnZero_eq (hs : SameFixedBits v w) (mk : Imm → Reg → Reg → Instr) : onlyFnZero mk w = onlyFnZero mk v := by
  rw [onlyFnZero, onlyFnZero, hs.fn]

theorem exists_decodeAluI (hs : SameFixedBits v w) (hop : opcodeOf v = 0b1011#4) (h : decodeAluI v = .ok i) :
    ∃ j, decodeAluI w = .ok j := by
  unfold decodeAluI at h ⊢
  rw [hs.fn]
  split at h
  case isTrue hfn => exact if_pos hfn ▸ exists_decodeImmZero (hs.formatI0 hop hfn) h
  case isFalse hfn => exact if_neg hfn ▸ exists_decodeImm w h

theorem exists_decodeBranch (hs : SameFixedBits v w) (hop : opcodeOf v = 0b0000#4) (h : decodeBranch v = .ok i) :
    ∃ j, decodeBranch w = .ok j := by
  unfold decodeBranch at h ⊢
  rw [hs.fn]
  split at h
  case h_1 mk hmk => exact exists_decodeImmZero (hs.formatS0 hop (by simp [hmk])) h
  case h_2 => exact exists_decodeImm w h

theorem exists_decode (hs : SameFixedBits v w) (h : decode v = .ok i) : ∃ j, decode w = .ok j := by
  unfold decode at h ⊢
  rw [hs.opcode]
  split at h
  case h_1 hop => exact hs.exists_decodeBranch hop h
  case h_2 => exact hs.onlyFnZero_eq _ ▸ exists_decodeImm w h
  case h_3 => exact hs.onlyFnZero_eq _ ▸ exists_decodeImm w h
  case h_4 => exact hs.onlyFnZero_eq _ ▸ exists_decodeImm w h
  case h_5 => exact hs.fn ▸ exists_decodeImm w h
  case h_6 hop => exact hs.exists_decodeAluI hop h
  case h_7 hop => exact hs.fn ▸ exists_decodeR (hs.formatR (.inr hop)) h
  case h_8 hop => exact hs.fn ▸ exists_decodeR (hs.formatR (.inl hop)) h
  case h_9 => cases h

end SameFixedBits

/-- Bits that a mask keeps are the bits of the masked word. -/
theorem extractLsb'_of_masked {w m v : Word} (h : w &&& m = v) {start len : Nat}
    (hm : m.extractLsb' start len = BitVec.allOnes len) : w.extractLsb' start len = v.extractLsb' start len := by
  rw [← h, BitVec.extractLsb'_and, hm, BitVec.and_allOnes]

/-- A row's mask keeps the function, the opcode and the must-be-zero bits of the row's format. -/
theorem row_mask_keeps : ∀ row ∈ opcodeRows,
    fnOf row.mask = BitVec.allOnes 4 ∧ opcodeOf row.mask = BitVec.allOnes 4 ∧
    (opcodeOf row.value = 0b1111#4 ∨ opcodeOf row.value = 0b1110#4 → zeroOf row.mask = BitVec.allOnes 12) ∧
    (opcodeOf row.value = 0b1011#4 → fnOf row.value = 0b1111#4 → row.mask.extractLsb' 4 4 = BitVec.allOnes 4) ∧
    (opcodeOf row.value = 0b0000#4 → (branchZeroTable (fnOf row.value)).isSome = true →
      row.mask.extractLsb' 4 4 = BitVec.allOnes 4) := by decide

theorem sameFixedBits_of_accepts {row : Row} {w : Word} (hrow : row ∈ opcodeRows) (h : w &&& row.mask = row.value) :
    SameFixedBits row.value w := by
  obtain ⟨hfn, hop, hR, hI0, hS0⟩ := row_mask_keeps row hrow
  exact {
    fn := extractLsb'_of_masked h hfn
    opcode := extractLsb'_of_masked h hop
    formatR := fun hc => extractLsb'_of_masked h (hR hc)
    formatI0 := fun hc hf => congrArg BitVec.toFin (extractLsb'_of_masked h (hI0 hc hf))
    formatS0 := fun hc hf => congrArg BitVec.toFin (extractLsb'_of_masked h (hS0 hc hf)) }

/-- No word matches two rows: no two have the same function and opcode. -/
theorem row_eq_of_accepts {r₁ r₂ : Row} {w : Word} (h₁ : r₁ ∈ opcodeRows) (h₂ : r₂ ∈ opcodeRows)
    (ha₁ : w &&& r₁.mask = r₁.value) (ha₂ : w &&& r₂.mask = r₂.value) : r₁ = r₂ := by
  have hs₁ := sameFixedBits_of_accepts h₁ ha₁
  have hs₂ := sameFixedBits_of_accepts h₂ ha₂
  exact List.inj_on_of_nodup_map (f := fun r : Row => (fnOf r.value, opcodeOf r.value)) (by decide) h₁ h₂
    (Prod.ext (hs₁.fn.symm.trans hs₂.fn) (hs₁.opcode.symm.trans hs₂.opcode))

/-- A row's value, all operands zero, is an instruction. -/
theorem row_value_decodes : ∀ row ∈ opcodeRows, (decode row.value).toOption.isSome = true := by decide

theorem exists_decode_of_accepts {row : Row} {w : Word} (hrow : row ∈ opcodeRows) (h : w &&& row.mask = row.value) :
    ∃ i, decode w = .ok i := by
  have hv := row_value_decodes row hrow
  cases hd : decode row.value with
  | error r => simp [hd, Except.toOption] at hv
  | ok i => exact (sameFixedBits_of_accepts hrow h).exists_decode hd

/-! ### The obligation -/

/-- Settles O4: a decoded word is the encoding of its instruction, which the row of its name accepts; a word that a row
accepts decodes, and no second row accepts it. -/
theorem decoderAgreesWithTheTable : Obligations.DecoderAgreesWithTheTable := by
  unfold Obligations.DecoderAgreesWithTheTable
  intro row hrow w
  refine ⟨⟨fun hacc => ?_, fun ⟨i, hdec, hname⟩ => ?_⟩, fun i hdec => ?_⟩
  · obtain ⟨i, hdec⟩ := exists_decode_of_accepts hrow hacc
    obtain ⟨row', hrow', hname', hacc'⟩ := exists_row_of_decode hdec
    exact ⟨i, hdec, row_eq_of_accepts hrow hrow' hacc hacc' ▸ hname'.symm⟩
  · obtain ⟨row', hrow', hname', hacc'⟩ := exists_row_of_decode hdec
    exact row_eq_of_mnemonic hrow' hrow (hname'.trans hname) ▸ hacc'
  · exact encode_of_decode hdec ▸ operandsRead_encode i

end Sys2Proof
end

section
/-! PROOFS. The start of a run (70_reset_and_hazards.md R300): the words a run starts with, and its first fetch. -/

namespace Sys2Proof

open Machine

/-- Word `k` of the image is RAM word `k` (20_memory.md R41). -/
theorem ramWord_boot (v : StartValues) {image : List Word} {k : Nat} (hk : k < image.length) (hram : k < ramWords) :
    (boot v image).ramWord k = image[k] := by
  have hlen : k < (image.take ramWords).length := by simp [hk, hram]
  simpa [State.ramWord, boot] using (readWord_loadWords (image.take ramWords) 0 [] k hlen).1

/-- With no word marked as stored to, the fetch at the reset `pc` answers RAM word 16 (20_memory.md R49). -/
theorem fetch_pcReset {s : State} (h : s.dirty = []) : fetch pcReset s = .ok (s.ramWord 16) :=
  (fetch_ok pcReset _ s).mpr ⟨by decide, by decide, by simp [h], rfl⟩

/-- Settles O16: both start states have `pc` at `pcReset` and no word marked, so the first fetch answers RAM word 16,
which the image gives. -/
theorem resetStartsAtByteAddress40 : Obligations.ResetStartsAtByteAddress40 := by
  unfold Obligations.ResetStartsAtByteAddress40
  refine ⟨rfl, fetch_pcReset rfl, fun v image => ⟨rfl, fun h => ?_⟩⟩
  calc fetch (boot v image).pc (boot v image)
      = .ok ((boot v image).ramWord 16) := fetch_pcReset rfl
    _ = .ok image[16] := by rw [ramWord_boot v h (by decide)]

end Sys2Proof
end

section
/-! PROOFS. The encoder and the decoder undo each other, and the reserved words (30_encoding.md sections 3 and 4). -/

namespace Sys2Proof

open Machine

/-! ### Decoding a packed word -/

theorem decode_aluR {fn : BitVec 4} {mk : Reg → Reg → Reg → Instr} (h : aluRTable fn = some mk) (a b c : Reg) :
    decode (packR fn 0b1111#4 a b c) = .ok (mk a b c) := by
  simp [decode, decodeR, h]

theorem decode_cmpR {fn : BitVec 4} {mk : Reg → Reg → Reg → Instr} (h : cmpRTable fn = some mk) (a b c : Reg) :
    decode (packR fn 0b1110#4 a b c) = .ok (mk a b c) := by
  simp [decode, decodeR, h]

theorem decode_aluI {fn : BitVec 4} {mk : Imm → Reg → Reg → Instr} (h : aluITable fn = some mk)
    (imm : Imm) (a b : Reg) : decode (packImm fn 0b1011#4 imm a b) = .ok (mk imm a b) := by
  have hfn : fn ≠ 0b1111#4 := by rintro rfl; cases h
  simp [decode, decodeAluI, decodeImm, hfn, h]

theorem decode_mvhi (imm : Imm) (b : Reg) : decode (packImm 0b1111#4 0b1011#4 imm 0 b) = .ok (.mvhi imm b) := by
  simp [decode, decodeAluI, decodeImmZero]

theorem decode_cmpI {fn : BitVec 4} {mk : Imm → Reg → Reg → Instr} (h : cmpITable fn = some mk) (imm : Imm)
    (a b : Reg) : decode (packImm fn 0b1010#4 imm a b) = .ok (mk imm a b) := by
  simp [decode, decodeImm, h]

theorem decode_branch {fn : BitVec 4} {mk : Imm → Reg → Reg → Instr} (hz : branchZeroTable fn = none)
    (h : branchTable fn = some mk) (imm : Imm) (a b : Reg) :
    decode (packImm fn 0b0000#4 imm a b) = .ok (mk imm a b) := by
  simp [decode, decodeBranch, decodeImm, hz, h]

theorem decode_branchZero {fn : BitVec 4} {mk : Imm → Reg → Instr} (h : branchZeroTable fn = some mk) (imm : Imm)
    (b : Reg) : decode (packImm fn 0b0000#4 imm 0 b) = .ok (mk imm b) := by
  simp [decode, decodeBranch, decodeImmZero, h]

theorem decode_lw (imm : Imm) (a b : Reg) : decode (packImm 0b0000#4 0b1001#4 imm a b) = .ok (.lw imm a b) := by
  simp [decode, decodeImm, onlyFnZero]

theorem decode_sw (imm : Imm) (a b : Reg) : decode (packImm 0b0000#4 0b1000#4 imm a b) = .ok (.sw imm b a) := by
  simp [decode, decodeImm, onlyFnZero]

theorem decode_jal (imm : Imm) (a b : Reg) : decode (packImm 0b0000#4 0b0001#4 imm a b) = .ok (.jal imm a b) := by
  simp [decode, decodeImm, onlyFnZero]

/-- Settles O2: each instruction's encoding is a packed word of its class, with the function of its cell. -/
theorem decodeInvertsEncode : Obligations.DecodeInvertsEncode := by
  unfold Obligations.DecodeInvertsEncode
  intro i
  cases i
  case add | sub | and | or | xor | nand | nor | xnor => exact decode_aluR rfl ..
  case addi | subi | andi | ori | xori | nandi | nori | xnori => exact decode_aluI rfl ..
  case mvhi => exact decode_mvhi ..
  case lw => exact decode_lw ..
  case sw => exact decode_sw ..
  case f | eq | lt | lte | t | ne | gte | gt => exact decode_cmpR rfl ..
  case fi | eqi | lti | ltei | ti | nei | gtei | gti => exact decode_cmpI rfl ..
  case bf | beq | blt | blte | bt | bne | bgte | bgt => exact decode_branch rfl rfl ..
  case beqz | bltz | bltez | bnez | bgtez | bgtz => exact decode_branchZero rfl ..
  case jal => exact decode_jal ..

/-- Settles O3: a decoded word is packed again from the fields it was read from. -/
theorem encodeInvertsDecode : Obligations.EncodeInvertsDecode := by
  unfold Obligations.EncodeInvertsDecode
  exact fun _ _ => encode_of_decode

/-- Settles O1: the decoder run on each of the words. -/
theorem listedWordsDecode : Obligations.ListedWordsDecode := by
  unfold Obligations.ListedWordsDecode
  decide

/-! ### The rows and the words none of them accepts -/

theorem row_accepts_iff (row : Row) (w : Word) : row.accepts w = true ↔ w &&& row.mask = row.value := by
  simp [Row.accepts]

/-- Settles O5: two rows that accept a word have its function and opcode in common, which no two rows have. -/
theorem noWordMatchesTwoRows : Obligations.NoWordMatchesTwoRows := by
  unfold Obligations.NoWordMatchesTwoRows
  refine ⟨rfl, fun w r₁ h₁ r₂ h₂ ha₁ ha₂ => ?_⟩
  exact row_eq_of_accepts h₁ h₂ ((row_accepts_iff r₁ w).mp ha₁) ((row_accepts_iff r₂ w).mp ha₂)

theorem wellFormedWord_iff (w : Word) : wellFormedWord w = true ↔ ∃ i, decode w = .ok i := by
  simp only [wellFormedWord, List.any_eq_true, row_accepts_iff]
  constructor
  · rintro ⟨row, hrow, hacc⟩
    exact exists_decode_of_accepts hrow hacc
  · rintro ⟨i, hdec⟩
    obtain ⟨row, hrow, -, hacc⟩ := exists_row_of_decode hdec
    exact ⟨row, hrow, hacc⟩

theorem wellFormedWord_eq_false_iff (w : Word) : wellFormedWord w = false ↔ ∃ r, decode w = .error r := by
  rw [← Bool.not_eq_true, wellFormedWord_iff]
  cases decode w <;> simp

theorem decodeR_error (cell : Option (Reg → Reg → Reg → Instr)) (w : Word) :
    (∃ r, decodeR cell w = .error r) ↔ cell.isNone = true ∨ zeroOf w ≠ 0#12 := by
  cases cell with
  | none => simp [decodeR]
  | some mk => by_cases hz : zeroOf w = 0#12 <;> simp [decodeR, hz]

theorem decodeImm_error (cell : Option (Imm → Reg → Reg → Instr)) (w : Word) :
    (∃ r, decodeImm cell w = .error r) ↔ cell.isNone = true := by
  cases cell <;> simp [decodeImm]

theorem regMid_eq_zero (w : Word) : regMid w = 0 ↔ w.extractLsb' 4 4 = 0#4 := by
  rw [regMid, BitVec.toFin_inj.symm]; rfl

theorem decodeImmZero_error (mk : Imm → Reg → Instr) (w : Word) :
    (∃ r, decodeImmZero (some mk) w = .error r) ↔ w.extractLsb' 4 4 ≠ 0#4 := by
  rw [ne_eq, ← regMid_eq_zero]
  by_cases hz : regMid w = 0 <;> simp [decodeImmZero, hz]

/-! The empty cells of each table (30_encoding.md R83 (b) to (f)). -/

theorem aluRTable_isNone : ∀ fn : BitVec 4, (aluRTable fn).isNone = true ↔
    fn ∈ [0b0000#4, 0b0001#4, 0b0100#4, 0b1000#4, 0b1100#4, 0b1101#4, 0b1110#4, 0b1111#4] := by decide

theorem aluITable_isNone : ∀ fn : BitVec 4, fn ≠ 0b1111#4 → ((aluITable fn).isNone = true ↔
    fn ∈ [0b0000#4, 0b0001#4, 0b0100#4, 0b1000#4, 0b1100#4, 0b1101#4, 0b1110#4]) := by decide

theorem cmpRTable_isNone : ∀ fn : BitVec 4, (cmpRTable fn).isNone = true ↔
    fn ∈ [0b0100#4, 0b0101#4, 0b0110#4, 0b0111#4, 0b1000#4, 0b1001#4, 0b1010#4, 0b1011#4] := by decide

theorem cmpITable_isNone : ∀ fn : BitVec 4, (cmpITable fn).isNone = true ↔
    fn ∈ [0b0100#4, 0b0101#4, 0b0110#4, 0b0111#4, 0b1000#4, 0b1001#4, 0b1010#4, 0b1011#4] := by decide

theorem branchZeroTable_isSome : ∀ fn : BitVec 4, (branchZeroTable fn).isSome = true ↔
    fn ∈ [0b1000#4, 0b1001#4, 0b0110#4, 0b0100#4, 0b0101#4, 0b1010#4] := by decide

theorem branchTable_isNone : ∀ fn : BitVec 4, (branchZeroTable fn).isNone = true →
    ((branchTable fn).isNone = true ↔ fn ∈ [0b0111#4, 0b1011#4]) := by decide

theorem onlyFnZero_isNone (mk : Imm → Reg → Reg → Instr) (w : Word) :
    (onlyFnZero mk w).isNone = true ↔ fnOf w ≠ 0b0000#4 := by
  by_cases h : fnOf w = 0b0000#4 <;> simp [onlyFnZero, h]

theorem decodeAluI_error (w : Word) : (∃ r, decodeAluI w = .error r) ↔
    fnOf w ∈ [0b0000#4, 0b0001#4, 0b0100#4, 0b1000#4, 0b1100#4, 0b1101#4, 0b1110#4] ∨
      (fnOf w = 0b1111#4 ∧ w.extractLsb' 4 4 ≠ 0#4) := by
  by_cases hfn : fnOf w = 0b1111#4
  · simp [decodeAluI, hfn, decodeImmZero_error]
  · simp only [decodeAluI, if_false, decodeImm_error, hfn, aluITable_isNone _ hfn, false_and, or_false]

theorem decodeBranch_error (w : Word) : (∃ r, decodeBranch w = .error r) ↔
    fnOf w ∈ [0b0111#4, 0b1011#4] ∨
      (fnOf w ∈ [0b1000#4, 0b1001#4, 0b0110#4, 0b0100#4, 0b0101#4, 0b1010#4] ∧ w.extractLsb' 4 4 ≠ 0#4) := by
  rw [← branchZeroTable_isSome]
  cases hz : branchZeroTable (fnOf w) with
  | none =>
    have hnone := branchTable_isNone (fnOf w) (by simp [hz])
    simp only [decodeBranch, hz, decodeImm_error, hnone, Option.isSome_none, Bool.false_eq_true, false_and, or_false]
  | some mk =>
    have hfn : fnOf w ∉ [0b0111#4, 0b1011#4] := by
      intro hmem
      have hnone : ∀ fn ∈ [0b0111#4, 0b1011#4], (branchZeroTable fn).isNone = true := by decide
      simpa [hz] using hnone _ hmem
    simp only [decodeBranch, hz, decodeImmZero_error, hfn, Option.isSome_some, true_and, false_or]

theorem opcode_cell_empty : ∀ op : BitVec 4, op ≠ 0b0000#4 → op ≠ 0b0001#4 → op ≠ 0b1000#4 → op ≠ 0b1001#4 →
    op ≠ 0b1010#4 → op ≠ 0b1011#4 → op ≠ 0b1110#4 → op ≠ 0b1111#4 →
    op ∈ [0b0010#4, 0b0011#4, 0b0100#4, 0b0101#4, 0b0110#4, 0b0111#4, 0b1100#4, 0b1101#4] := by decide

/-- Settles O6: in the class of each opcode the reserved words are those the class's decoding refuses; the count runs
the list on the 256 pairs. -/
theorem reservedWordsAreThoseListed : Obligations.ReservedWordsAreThoseListed := by
  unfold Obligations.ReservedWordsAreThoseListed
  refine ⟨fun w => ?_, by decide⟩
  rw [wellFormedWord_eq_false_iff]
  unfold decode
  split
  case h_1 hop => rw [decodeBranch_error]; simp [hop]
  case h_2 hop => rw [decodeImm_error, onlyFnZero_isNone]; simp [hop]
  case h_3 hop => rw [decodeImm_error, onlyFnZero_isNone]; simp [hop]
  case h_4 hop => rw [decodeImm_error, onlyFnZero_isNone]; simp [hop]
  case h_5 hop => rw [decodeImm_error, cmpITable_isNone]; simp [hop]
  case h_6 hop => rw [decodeAluI_error]; simp [hop]
  case h_7 hop => rw [decodeR_error, cmpRTable_isNone, zeroOf]; simp [hop]
  case h_8 hop => rw [decodeR_error, aluRTable_isNone, zeroOf]; simp [hop]
  case h_9 h₀ h₁ h₂ h₃ h₄ h₅ h₆ h₇ =>
    exact iff_of_true ⟨_, rfl⟩ (.inl (opcode_cell_empty _ h₀ h₁ h₂ h₃ h₄ h₅ h₆ h₇))

/-- Settles O7: a word that does not decode is the fault; one that decodes runs, and no instruction raises this
fault. -/
theorem reservedWordFaults : Obligations.ReservedWordFaults := by
  unfold Obligations.ReservedWordFaults
  intro s w hf
  rw [wellFormedWord_eq_false_iff]
  cases hdec : decode w with
  | error r => simp [step_of_reserved hf hdec]
  | ok i =>
    have hstep : exec i s ≠ .fault (.reservedEncoding s.pc w) := by
      intro hx
      obtain ⟨imm, rs1, rd, -, hm⟩ | ⟨imm, rs1, rs2, -, hm⟩ := exec_fault hx
      · obtain ⟨-, hm⟩ | ⟨-, -, -, -, hm⟩ := memRead_error hm <;> cases hm
      · obtain ⟨-, hm⟩ | ⟨-, -, -, -, hm⟩ := memWrite_error hm <;> cases hm
    simp [step_of_fetch hf hdec, hstep]

end Sys2Proof
end

section
/-! PROOFS. When an instruction and a step complete and what they answer when they do not (60_exceptions.md section 1;
70_reset_and_hazards.md section 3). -/

namespace Sys2Proof

open Machine

/-! ### LW and SW -/

theorem exec_lw_of_ok {imm : Imm} {rs1 rd : Reg} {s s' : State} {v : Word}
    (h : memRead (effectiveAddress s rs1 imm) s = .ok (v, s')) :
    exec (.lw imm rs1 rd) s = .next (s'.writeReg rd v).advance := by
  simp [exec, execLw, h, writeBack]

theorem exec_lw_of_error {imm : Imm} {rs1 rd : Reg} {s : State} {f : Fault}
    (h : memRead (effectiveAddress s rs1 imm) s = .error f) : exec (.lw imm rs1 rd) s = .fault f := by
  simp [exec, execLw, h]

theorem exec_sw_of_ok {imm : Imm} {rs1 rs2 : Reg} {s s' : State}
    (h : memWrite (effectiveAddress s rs1 imm) (s.readReg rs2) s = .ok s') :
    exec (.sw imm rs1 rs2) s = .next s'.advance := by
  simp [exec, execSw, h]

theorem exec_sw_of_error {imm : Imm} {rs1 rs2 : Reg} {s : State} {f : Fault}
    (h : memWrite (effectiveAddress s rs1 imm) (s.readReg rs2) s = .error f) : exec (.sw imm rs1 rs2) s = .fault f := by
  simp [exec, execSw, h]

/-- Everything an LW that completes did. -/
theorem exec_lw_next {imm : Imm} {rs1 rd : Reg} {s t : State} (h : exec (.lw imm rs1 rd) s = .next t) :
    ∃ v s', memRead (effectiveAddress s rs1 imm) s = .ok (v, s') ∧ t = (s'.writeReg rd v).advance := by
  cases hm : memRead (effectiveAddress s rs1 imm) s with
  | error f => rw [exec_lw_of_error hm] at h; cases h
  | ok r => rw [exec_lw_of_ok hm] at h; cases h; exact ⟨_, _, rfl, rfl⟩

/-- Everything an SW that completes did. -/
theorem exec_sw_next {imm : Imm} {rs1 rs2 : Reg} {s t : State} (h : exec (.sw imm rs1 rs2) s = .next t) :
    ∃ s', memWrite (effectiveAddress s rs1 imm) (s.readReg rs2) s = .ok s' ∧ t = s'.advance := by
  cases hm : memWrite (effectiveAddress s rs1 imm) (s.readReg rs2) s with
  | error f => rw [exec_sw_of_error hm] at h; cases h
  | ok s' => rw [exec_sw_of_ok hm] at h; cases h; exact ⟨_, rfl, rfl⟩

/-! ### When an instruction completes -/

theorem loadable_of_memRead_ok {ea v : Word} {s s' : State} (h : memRead ea s = .ok (v, s')) : loadable ea = true := by
  obtain ⟨hal, hcases⟩ := memRead_ok h
  refine (loadable_iff ea).mpr ⟨hal, ?_⟩
  obtain ⟨hr, -⟩ | ⟨ha, -⟩ | ⟨ha, -⟩ := hcases
  · exact .inl hr
  · exact .inr (.inl ha)
  · exact .inr (.inr ha)

theorem storable_of_memWrite_ok {ea v : Word} {s s' : State} (h : memWrite ea v s = .ok s') : storable ea = true := by
  obtain ⟨hal, hcases⟩ := memWrite_ok h
  refine (storable_iff ea).mpr ⟨hal, ?_⟩
  obtain ⟨hr, -⟩ | ⟨ha, -⟩ | ⟨ha, -⟩ := hcases
  · exact .inl hr
  · exact .inr (.inl ha)
  · exact .inr (.inr ha)

theorem loadable_of_memRead_error {ea : Word} {s : State} {f : Fault} (h : memRead ea s = .error f) :
    loadable ea = false := by
  rw [← Bool.not_eq_true, loadable_iff]
  obtain ⟨hal, -⟩ | ⟨-, hr, hk, hs, -⟩ := memRead_error h
  · exact fun hl => hal hl.1
  · rintro ⟨-, hlt | ha | ha⟩
    · omega
    · exact hk ha
    · exact hs ha

theorem storable_of_memWrite_error {ea v : Word} {s : State} {f : Fault} (h : memWrite ea v s = .error f) :
    storable ea = false := by
  rw [← Bool.not_eq_true, storable_iff]
  obtain ⟨hal, -⟩ | ⟨-, hr, hh, hl, -⟩ := memWrite_error h
  · exact fun hs => hal hs.1
  · rintro ⟨-, hlt | ha | ha⟩
    · omega
    · exact hh ha
    · exact hl ha

theorem accessDefined_of_next {i : Instr} {s t : State} (h : exec i s = .next t) : accessDefined i s = true := by
  cases i
  case lw => obtain ⟨_, _, hm, -⟩ := exec_lw_next h; exact loadable_of_memRead_ok hm
  case sw => obtain ⟨_, hm, -⟩ := exec_sw_next h; exact storable_of_memWrite_ok hm
  all_goals rfl

theorem accessDefined_of_fault {i : Instr} {s : State} {f : Fault} (h : exec i s = .fault f) :
    accessDefined i s = false := by
  obtain ⟨_, _, _, rfl, hm⟩ | ⟨_, _, _, rfl, hm⟩ := exec_fault h
  · exact loadable_of_memRead_error hm
  · exact storable_of_memWrite_error hm

theorem exec_next_iff (i : Instr) (s : State) : (∃ t, exec i s = .next t) ↔ accessDefined i s = true := by
  constructor
  · rintro ⟨t, h⟩; exact accessDefined_of_next h
  · intro hd
    cases h : exec i s with
    | next t => exact ⟨t, rfl⟩
    | fault f => exact absurd (accessDefined_of_fault h) (by simp [hd])
    | refused r => exact absurd h (exec_not_refused i s r)

theorem exec_fault_iff (i : Instr) (s : State) : (∃ f, exec i s = .fault f) ↔ accessDefined i s = false := by
  constructor
  · rintro ⟨f, h⟩; exact accessDefined_of_fault h
  · intro hd
    cases h : exec i s with
    | next t => exact absurd (accessDefined_of_next h) (by simp [hd])
    | fault f => exact ⟨f, rfl⟩
    | refused r => exact absurd h (exec_not_refused i s r)

/-- Settles O13: a completed access is a defined one, a faulting access is not, and there is no third outcome. -/
theorem instructionsCompleteExactlyWhenTheirAccessIsDefined :
    Obligations.InstructionsCompleteExactlyWhenTheirAccessIsDefined := by
  unfold Obligations.InstructionsCompleteExactlyWhenTheirAccessIsDefined
  exact fun i s => ⟨exec_next_iff i s, exec_fault_iff i s, exec_not_refused i s⟩

/-! ### When a step completes -/

theorem step_eq_exec {s : State} {i : Instr} (hal : s.pc.toNat % 4 = 0) (hram : s.pc.toNat < 8192)
    (hd : s.pc.toNat / 4 ∉ s.dirty) (hdec : decode (s.mem.readWord s.pc.toNat) = .ok i) : step s = exec i s :=
  step_of_fetch ((fetch_ok _ _ _).mpr ⟨hal, hram, hd, rfl⟩) hdec

/-- Settles O9: the fetch answers the RAM word at `pc`, and the step runs what it decodes to. -/
theorem stepRunsTheDecodedInstruction : Obligations.StepRunsTheDecodedInstruction := by
  unfold Obligations.StepRunsTheDecodedInstruction
  exact fun _ _ => step_eq_exec

/-- Settles O10: the four checks of the fetch, each at the addresses the ones before it let through. -/
theorem fetchFaultsComeFirst : Obligations.FetchFaultsComeFirst := by
  unfold Obligations.FetchFaultsComeFirst
  intro s
  split
  next hal => exact step_of_fetch_error (fetch_misaligned s hal)
  next hal =>
    have hal : s.pc.toNat % 4 = 0 := not_not.mp hal
    split
    next hout => exact step_of_fetch_error (fetch_outside s hal (by omega))
    next hin =>
      have hin : s.pc.toNat < 8192 := by omega
      split
      next hd => exact step_of_fetch_error (fetch_modified s hal hin hd)
      next hd => exact (fetch_ok _ _ _).mpr ⟨hal, hin, hd, rfl⟩

theorem step_next_iff (s : State) : (∃ t, step s = .next t) ↔ stepDefined s := by
  constructor
  · rintro ⟨t, h⟩
    obtain ⟨w, i, hf, hdec, hx⟩ := step_next h
    obtain ⟨hal, hram, hd, rfl⟩ := (fetch_ok _ _ _).mp hf
    exact ⟨hal, hram, hd, i, hdec, accessDefined_of_next hx⟩
  · rintro ⟨hal, hram, hd, i, hdec, hacc⟩
    rw [step_eq_exec hal hram hd hdec]
    exact (exec_next_iff i s).mpr hacc

/-- Settles O11: a step completes when its fetch, its decode and its data access do. -/
theorem stepCompletesExactlyWhenDefined : Obligations.StepCompletesExactlyWhenDefined := by
  unfold Obligations.StepCompletesExactlyWhenDefined
  exact step_next_iff

/-- One more step at the front of a run, on any machine. -/
theorem run_succ_next {M : Host.Core} (k : Nat) (s t : M.State) :
    M.run (k + 1) s = .next t ↔ ∃ u, M.step s = .next u ∧ M.run k u = .next t := by
  rw [Host.Core.run]
  cases M.step s <;> simp

/-- Settles O14, by induction on the length of the run: its first step completes exactly when it is defined. -/
theorem safeRunsComplete : Obligations.SafeRunsComplete := by
  unfold Obligations.SafeRunsComplete
  intro k
  induction k with
  | zero => exact fun s => iff_of_true trivial ⟨s, rfl⟩
  | succ k ih =>
    intro s
    constructor
    · rintro ⟨hdef, hrest⟩
      obtain ⟨u, hu⟩ := (step_next_iff s).mpr hdef
      obtain ⟨t, ht⟩ := (ih u).mp (hrest u hu)
      exact ⟨t, (run_succ_next (M := core) k s t).mpr ⟨u, hu, ht⟩⟩
    · rintro ⟨t, h⟩
      obtain ⟨u, hu, ht⟩ := (run_succ_next (M := core) k s t).mp h
      have hu : step s = .next u := hu
      refine ⟨(step_next_iff s).mp ⟨u, hu⟩, fun u' hu' => (ih u').mpr ⟨t, ?_⟩⟩
      rw [hu] at hu'
      cases hu'
      exact ht

/-! ### The faults of a step -/

/-- Everything a fetch that faults can be (20_memory.md R49). -/
theorem fetch_error {a : Word} {s : State} {f : Fault} (h : fetch a s = .error f) :
    (a.toNat % 4 ≠ 0 ∧ f = .misalignedFetch a) ∨
      (a.toNat % 4 = 0 ∧ 8192 ≤ a.toNat ∧ f = .fetchOutsideRam a) ∨
      (a.toNat % 4 = 0 ∧ a.toNat < 8192 ∧ a.toNat / 4 ∈ s.dirty ∧ f = .fetchOfModifiedWord a) := by
  by_cases hal : a.toNat % 4 = 0
  · refine .inr ?_
    by_cases hram : a.toNat < 8192
    · refine .inr ?_
      by_cases hd : a.toNat / 4 ∈ s.dirty
      · rw [fetch_modified s hal hram hd] at h; cases h; exact ⟨hal, hram, hd, rfl⟩
      · rw [(fetch_ok a _ s).mpr ⟨hal, hram, hd, rfl⟩] at h; cases h
    · rw [fetch_outside s hal (by omega)] at h; cases h; exact .inl ⟨hal, by omega, rfl⟩
  · rw [fetch_misaligned s hal] at h; cases h; exact .inl ⟨hal, rfl⟩

/-- Everything a step that faults can be: its fetch faults, its word is reserved, or its instruction faults. -/
theorem step_fault {s : State} {f : Fault} (h : step s = .fault f) :
    fetch s.pc s = .error f ∨
      (∃ w, fetch s.pc s = .ok w ∧ wellFormedWord w = false ∧ f = .reservedEncoding s.pc w) ∨
      ∃ i, fetchInstr s = .ok i ∧ exec i s = .fault f := by
  cases hf : fetch s.pc s with
  | error g => rw [step_of_fetch_error hf] at h; cases h; exact .inl rfl
  | ok w =>
    cases hdec : decode w with
    | error r =>
      rw [step_of_reserved hf hdec] at h
      cases h
      exact .inr (.inl ⟨w, rfl, (wellFormedWord_eq_false_iff w).mpr ⟨r, hdec⟩, rfl⟩)
    | ok i =>
      rw [step_of_fetch hf hdec] at h
      exact .inr (.inr ⟨i, (fetchInstr_ok s i).mpr ⟨w, hf, hdec⟩, h⟩)

/-- Settles O12: the faults of the fetch, of the decode, of a load and of a store, each with its condition. -/
theorem faultsAreThoseListed : Obligations.FaultsAreThoseListed := by
  unfold Obligations.FaultsAreThoseListed
  intro s f h
  obtain hf | ⟨w, hf, hw, rfl⟩ | ⟨i, hi, hx⟩ := step_fault h
  · obtain ⟨hal, rfl⟩ | ⟨hal, hout, rfl⟩ | ⟨hal, hram, hd, rfl⟩ := fetch_error hf
    · exact ⟨rfl, hal⟩
    · exact ⟨rfl, hal, by omega⟩
    · exact ⟨rfl, hal, by omega, hd⟩
  · exact ⟨rfl, hf, hw⟩
  · obtain ⟨imm, rs1, rd, rfl, hm⟩ | ⟨imm, rs1, rs2, rfl, hm⟩ := exec_fault hx
    · obtain ⟨hal, rfl⟩ | ⟨hal, -, -, -, rfl⟩ := memRead_error hm
      · exact ⟨rfl, hal, imm, rs1, rd, .inl hi, rfl⟩
      · exact ⟨rfl, hal, loadable_of_memRead_error hm, imm, rs1, rd, hi, rfl⟩
    · obtain ⟨hal, rfl⟩ | ⟨hal, -, -, -, rfl⟩ := memWrite_error hm
      · exact ⟨rfl, hal, imm, rs1, rs2, .inr hi, rfl⟩
      · exact ⟨rfl, hal, storable_of_memWrite_error hm, imm, rs1, rs2, hi, rfl⟩

end Sys2Proof
end

section
/-! PROOFS. The start of a run and what every step keeps: the canonical form of the RAM, the written-word bits, and the
image in every RAM word that no store has reached (10_state.md section 7; 20_memory.md section 6). -/

namespace Sys2Proof

open Machine

/-! ### The start of a run -/

theorem readWord_nil (a : Nat) : Memory.readWord [] a = 0#32 := by
  simp only [Memory.readWord, Memory.readByte]
  decide

/-- Word `k` of the RAM at the start of a run, given by the image or not. -/
theorem ramWord_boot_getD (v : StartValues) (image : List Word) {k : Nat} (hk : k < ramWords) :
    (boot v image).ramWord k = image.getD k 0#32 := by
  by_cases hlen : k < image.length
  · rw [ramWord_boot v hlen hk, List.getD_eq_getElem _ _ hlen]
  · rw [List.getD_eq_default _ _ (by omega)]
    cases image with
    | nil => exact readWord_nil _
    | cons w ws =>
      have hfirst : 0 < ((w :: ws).take ramWords).length := by simp [ramWords]
      have hlast : ((w :: ws).take ramWords).length ≤ (w :: ws).length := by simp
      exact ((readWord_loadWords _ 0 [] 0 hfirst).2 _ (by omega)).trans (readWord_nil _)

/-- Settles O17: the loaded words, and the other fields by definition. -/
theorem runStartsWithTheImage : Obligations.RunStartsWithTheImage := by
  unfold Obligations.RunStartsWithTheImage
  exact fun v image => ⟨fun k hk => ramWord_boot_getD v image hk, rfl, rfl, rfl, rfl⟩

/-- Settles O18: every register of the reset file is `regReset`, every byte of the empty list of cells is `memFill`. -/
theorem resetValuesTheModelChooses : Obligations.ResetValuesTheModelChooses := by
  unfold Obligations.ResetValuesTheModelChooses
  refine ⟨fun r => ?_, fun a => rfl, rfl, rfl, rfl, rfl⟩
  simp [State.readReg, State.reset, regReset]

theorem boot_inv (v : StartValues) (image : List Word) : (boot v image).inv := by
  have hwf : Memory.wf [] := ⟨List.Pairwise.nil, by simp⟩
  have hlen : 0 + 4 * (image.take ramWords).length ≤ ramBytes := by simp [ramBytes]
  obtain ⟨hw, hr⟩ := loadWords_keeps (image.take ramWords) 0 [] hwf (by simp) hlen
  exact ⟨hw, hr, List.Pairwise.nil, by simp [boot]⟩

/-- Settles O19: loading an image keeps the canonical form of the empty RAM, and no word is marked. -/
theorem invariantHoldsAtTheStart : Obligations.InvariantHoldsAtTheStart := by
  unfold Obligations.InvariantHoldsAtTheStart
  exact ⟨boot_inv StartValues.chosen [], boot_inv⟩

/-! ### The RAM and the marks after an instruction -/

/-- Everything a completed instruction does to the RAM and to the marks: nothing, unless it is an SW to the RAM. -/
theorem exec_ram_cases {i : Instr} {s t : State} (h : exec i s = .next t) :
    (t.mem = s.mem ∧ t.dirty = s.dirty ∧
      ∀ imm rs1 rs2, i = .sw imm rs1 rs2 → 8192 ≤ (effectiveAddress s rs1 imm).toNat) ∨
    ∃ imm rs1 rs2, i = .sw imm rs1 rs2 ∧ (effectiveAddress s rs1 imm).toNat % 4 = 0 ∧
      (effectiveAddress s rs1 imm).toNat < 8192 ∧
      t.mem = s.mem.writeWord (effectiveAddress s rs1 imm).toNat (s.readReg rs2) ∧
      t.dirty = insertIndex ((effectiveAddress s rs1 imm).toNat / 4) s.dirty := by
  obtain ⟨rd, v, hdest, -, -, rfl⟩ | ⟨imm, rs1, rd, v, rfl, -, rfl⟩ | ⟨imm, rs1, rs2, rfl, hal, hstore⟩ |
    ⟨imm, taken, hbr, -, rfl⟩ | ⟨imm, rs1, rd, rfl, rfl⟩ := exec_next h
  · exact .inl ⟨rfl, rfl, by rintro _ _ _ rfl; cases hdest⟩
  · exact .inl ⟨rfl, rfl, nofun⟩
  · obtain ⟨hram, rfl⟩ | ⟨ha, rfl⟩ | ⟨ha, rfl⟩ := hstore
    · exact .inr ⟨imm, rs1, rs2, rfl, hal, hram, rfl, rfl⟩
    · exact .inl ⟨rfl, rfl, by rintro _ _ _ ⟨⟩; rw [ha]; decide⟩
    · exact .inl ⟨rfl, rfl, by rintro _ _ _ ⟨⟩; rw [ha]; decide⟩
  · refine .inl ⟨?_, ?_, by rintro _ _ _ rfl; cases hbr⟩
    · cases taken <;> rfl
    · cases taken <;> rfl
  · exact .inl ⟨rfl, rfl, nofun⟩

/-- An aligned word of the RAM lies in its bounds. -/
theorem aligned_add_three_lt {a : Nat} (hal : a % 4 = 0) (hram : a < 8192) : a + 3 < ramBytes := by
  change a + 3 < 8192
  omega

theorem exec_keeps_inv {i : Instr} {s t : State} (hs : s.inv) (h : exec i s = .next t) : t.inv := by
  obtain ⟨hwf, hin, hsorted, hbound⟩ := hs
  obtain ⟨hmem, hdirty, -⟩ | ⟨imm, rs1, rs2, -, hal, hram, hmem, hdirty⟩ := exec_ram_cases h
  · rw [State.inv, hmem, hdirty]
    exact ⟨hwf, hin, hsorted, hbound⟩
  · rw [State.inv, hmem, hdirty]
    refine ⟨Memory.wf_writeWord hwf _ _, Memory.inRam_writeWord hin (aligned_add_three_lt hal hram) _,
      pairwise_insertIndex hsorted _, fun k hk => ?_⟩
    obtain rfl | hk := (mem_insertIndex _ _ _).mp hk
    · change _ < 2048
      omega
    · exact hbound k hk

/-- Settles O20: the only change to the RAM or the marks is a word write inside the RAM and its mark. -/
theorem stepKeepsTheInvariant : Obligations.StepKeepsTheInvariant := by
  unfold Obligations.StepKeepsTheInvariant
  intro s t hs h
  obtain ⟨_, _, -, -, hx⟩ := step_next h
  exact exec_keeps_inv hs hx

theorem step_keeps_codeIntact {image : Nat → Word} {s t : State} (hs : codeIntact image s) (h : step s = .next t) :
    codeIntact image t := by
  obtain ⟨_, i, -, -, hx⟩ := step_next h
  intro k hk hmark
  obtain ⟨hmem, hdirty, -⟩ | ⟨imm, rs1, rs2, -, hal, -, hmem, hdirty⟩ := exec_ram_cases hx
  · rw [State.ramWord, hmem]
    exact hs k hk (hdirty ▸ hmark)
  · rw [hdirty, mem_insertIndex, not_or] at hmark
    obtain ⟨hne, hmark⟩ := hmark
    rw [State.ramWord, hmem, Memory.readWord_writeWord_other _ _ _ _ (by omega)]
    exact hs k hk hmark

/-- Settles O21: a word left unmarked is not the word of a store, whose four bytes are apart from it. -/
theorem stepKeepsUnwrittenWords : Obligations.StepKeepsUnwrittenWords := by
  unfold Obligations.StepKeepsUnwrittenWords
  exact fun _ _ _ => step_keeps_codeIntact

/-- What every completed step keeps, every completed run keeps. -/
theorem run_keeps {P : State → Prop} (hstep : ∀ s t, P s → step s = .next t → P t) (k : Nat) (s t : State) (hs : P s)
    (h : Host.Core.run core k s = .next t) : P t := by
  induction k generalizing s with
  | zero => cases h; exact hs
  | succ k ih =>
    obtain ⟨u, hu, ht⟩ := (run_succ_next (M := core) k s t).mp h
    exact ih u (hstep s u hs hu) ht

/-- Settles O22: the words of the image are intact along the run, and a fetched word is unmarked. -/
theorem runsExecuteOnlyTheImage : Obligations.RunsExecuteOnlyTheImage := by
  unfold Obligations.RunsExecuteOnlyTheImage
  intro v image k t w hrun hf
  have hstart : codeIntact (fun k => image.getD k 0#32) (boot v image) := fun k hk _ => ramWord_boot_getD v image hk
  have hintact := run_keeps (fun _ _ => step_keeps_codeIntact) k _ t hstart hrun
  obtain ⟨hal, hram, hd, rfl⟩ := (fetch_ok _ _ _).mp hf
  have hk : t.pc.toNat / 4 < ramWords := by
    change _ < 2048
    omega
  have hword := hintact _ hk hd
  rwa [State.ramWord, Nat.mul_div_cancel' (Nat.dvd_of_mod_eq_zero hal)] at hword

/-- Settles O23: the mark of a store's word is the one change to the marks. -/
theorem writtenBitsFollowStores : Obligations.WrittenBitsFollowStores := by
  unfold Obligations.WrittenBitsFollowStores
  intro i s t h k
  obtain ⟨-, hdirty, hout⟩ | ⟨imm, rs1, rs2, rfl, -, hram, -, hdirty⟩ := exec_ram_cases h
  · rw [hdirty]
    constructor
    · exact .inl
    · rintro (hk | ⟨imm, rs1, rs2, hi, hram, -⟩)
      · exact hk
      · exact absurd hram (not_lt.mpr (hout imm rs1 rs2 hi))
  · rw [hdirty, mem_insertIndex]
    constructor
    · rintro (hk | hk)
      · exact .inr ⟨imm, rs1, rs2, rfl, hram, hk⟩
      · exact .inl hk
    · rintro (hk | ⟨_, _, _, ⟨⟩, -, hk⟩)
      · exact .inr hk
      · exact .inl hk

/-- An LW from the RAM writes the word there and nothing else. -/
theorem exec_lw_ram {imm : Imm} {rs1 rd : Reg} {s : State} {ea : Word} (hea : effectiveAddress s rs1 imm = ea)
    (hal : ea.toNat % 4 = 0) (hram : ea.toNat < 8192) :
    ∃ t, exec (.lw imm rs1 rd) s = .next t ∧ writesRegister rd (s.mem.readWord ea.toNat) s t := by
  rw [exec_lw_of_ok (by rw [hea]; exact memRead_ram s hal hram)]
  exact writeBack_spec _ _ _

/-- Settles O24: the store leaves its mark, which stops a fetch, and its value, which a load reads. -/
theorem storedWordIsDataOnly : Obligations.StoredWordIsDataOnly := by
  unfold Obligations.StoredWordIsDataOnly
  intro imm rs1 rs2 s t h hram
  obtain ⟨-, -, hout⟩ | ⟨_, _, _, ⟨⟩, hal, -, hmem, hdirty⟩ := exec_ram_cases h
  · exact absurd hram (not_lt.mpr (hout imm rs1 rs2 rfl))
  constructor
  · intro u hmarks hpc
    refine step_of_fetch_error (fetch_modified u ?_ ?_ (hmarks _ ?_))
    · rw [hpc]; exact hal
    · rw [hpc]; exact hram
    · rw [hpc, hdirty]; exact (mem_insertIndex _ _ _).mpr (.inl rfl)
  · intro imm' rs1' rd hea
    obtain ⟨u, hu, hw⟩ := exec_lw_ram (rd := rd) hea hal hram
    refine ⟨u, hu, ?_⟩
    rwa [hmem, effectiveAddress, sext32, Memory.readWord_writeWord_same] at hw

/-! ### Placing a word -/

theorem withFetchWord_eq {s : State} (w : Word) (hal : s.pc.toNat % 4 = 0) (hram : s.pc.toNat < 8192) :
    s.withFetchWord 32 w.toNat =
      { s with mem := s.mem.writeWord s.pc.toNat w, dirty := s.dirty.filter (· != wordIndex s.pc) } := by
  have hw : tableWord 32 w.toNat = w := by
    rw [tableWord, Nat.mod_eq_of_lt w.isLt, BitVec.ofNat_toNat, BitVec.setWidth_eq]
  simp [State.withFetchWord, placeAtPc, hw, (misaligned_eq_false _).mpr hal, (inRam_eq_true _).mpr hram]

/-- Settles O15: the placed word is the RAM word at `pc` and unmarked, so the fetch answers it. -/
theorem placedWordRunsNext : Obligations.PlacedWordRunsNext := by
  unfold Obligations.PlacedWordRunsNext
  intro s w i hal hram hdec
  rw [withFetchWord_eq w hal hram]
  refine ⟨step_eq_exec hal hram ?_ ?_, rfl, rfl, fun a => Memory.readByte_writeWord_other _ _ _ _⟩
  · simp [wordIndex]
  · rw [Memory.readWord_writeWord_same]; exact hdec

end Sys2Proof
end

section
/-! PROOFS. ALU and compare instructions, class by class (40_alu_r.md, 41_alu_i.md, 43_cmp_r.md, 44_cmp_i.md). -/

namespace Sys2Proof

open Machine

/-! ### From the operation of a class to the claim about its instructions -/

/-- An instruction that is the class operation of ALU-R or CMP-R has the result its operation gives. -/
theorem resultRRR_of_aluR {mk : Reg → Reg → Reg → Instr} {op : Word → Word → Word} {rel : Word → Word → Word → Prop}
    (hexec : ∀ rs2 rs1 rd s, exec (mk rs2 rs1 rd) s = aluR op rs2 rs1 rd s) (hrel : ∀ a b, rel a b (op a b)) :
    resultRRR mk rel := by
  intro rs2 rs1 rd s
  obtain ⟨t, ht, hw⟩ := aluR_spec op rs2 rs1 rd s
  exact ⟨t, _, (hexec rs2 rs1 rd s).trans ht, hrel _ _, hw⟩

/-- An instruction that is the class operation of ALU-I or CMP-I has the result its operation gives. -/
theorem resultIRR_of_aluI {mk : Imm → Reg → Reg → Instr} {op : Word → Word → Word} {rel : Word → Word → Word → Prop}
    (hexec : ∀ imm rs1 rd s, exec (mk imm rs1 rd) s = aluI op imm rs1 rd s) (hrel : ∀ a b, rel a b (op a b)) :
    resultIRR mk rel := by
  intro imm rs1 rd s
  obtain ⟨t, ht, hw⟩ := writeBack_spec rd (op (s.readReg rs1) (sext32 imm)) s
  exact ⟨t, _, (hexec imm rs1 rd s).trans ht, hrel _ _, hw⟩

/-! ### The operations -/

theorem opAdd_spec (a b : Word) :
    (opAdd a b).toNat = (a.toNat + b.toNat) % 2 ^ 32 ∧ opAdd a b = BitVec.ofInt 32 (a.toInt + b.toInt) :=
  ⟨BitVec.toNat_add a b, by simp [opAdd, BitVec.ofInt_add]⟩

theorem opSub_spec (a b : Word) :
    ((opSub a b).toNat + b.toNat) % 2 ^ 32 = a.toNat ∧ opSub a b = BitVec.ofInt 32 (a.toInt - b.toInt) :=
  ⟨by rw [← BitVec.toNat_add, opSub, BitVec.sub_add_cancel], by
    rw [← BitVec.toInt_inj, opSub, BitVec.toInt_sub, BitVec.toInt_ofInt]⟩

theorem opAnd_bitwise (a b : Word) : bitwise (fun a b => a && b) a b (opAnd a b) := by
  intro k hk; simp [opAnd]

theorem opOr_bitwise (a b : Word) : bitwise (fun a b => a || b) a b (opOr a b) := by
  intro k hk; simp [opOr]

theorem opXor_bitwise (a b : Word) : bitwise (fun a b => a != b) a b (opXor a b) := by
  intro k hk; simp [opXor]

theorem opNand_bitwise (a b : Word) : bitwise (fun a b => !(a && b)) a b (opNand a b) := by
  intro k hk; simp [opNand, hk]

theorem opNor_bitwise (a b : Word) : bitwise (fun a b => !(a || b)) a b (opNor a b) := by
  intro k hk; simp [opNor, hk]

theorem opXnor_bitwise (a b : Word) : bitwise (fun a b => a == b) a b (opXnor a b) := by
  intro k hk; simp [opXnor, hk]; rfl

/-- Settles O25: both are ALU-R over their operation. -/
theorem aluRegisterArithmetic : Obligations.AluRegisterArithmetic := by
  unfold Obligations.AluRegisterArithmetic
  exact ⟨resultRRR_of_aluR (fun _ _ _ _ => rfl) opAdd_spec, resultRRR_of_aluR (fun _ _ _ _ => rfl) opSub_spec⟩

/-- Settles O26: the six are ALU-R over their operation. -/
theorem aluRegisterLogic : Obligations.AluRegisterLogic := by
  unfold Obligations.AluRegisterLogic
  exact ⟨resultRRR_of_aluR (fun _ _ _ _ => rfl) opAnd_bitwise, resultRRR_of_aluR (fun _ _ _ _ => rfl) opOr_bitwise,
    resultRRR_of_aluR (fun _ _ _ _ => rfl) opXor_bitwise, resultRRR_of_aluR (fun _ _ _ _ => rfl) opNand_bitwise,
    resultRRR_of_aluR (fun _ _ _ _ => rfl) opNor_bitwise, resultRRR_of_aluR (fun _ _ _ _ => rfl) opXnor_bitwise⟩

/-- Settles O27: both are ALU-I over the operation of their ALU-R form. -/
theorem aluImmediateArithmetic : Obligations.AluImmediateArithmetic := by
  unfold Obligations.AluImmediateArithmetic
  exact ⟨resultIRR_of_aluI (fun _ _ _ _ => rfl) opAdd_spec, resultIRR_of_aluI (fun _ _ _ _ => rfl) opSub_spec⟩

/-- Settles O28: the six are ALU-I over the operation of their ALU-R form. -/
theorem aluImmediateLogic : Obligations.AluImmediateLogic := by
  unfold Obligations.AluImmediateLogic
  exact ⟨resultIRR_of_aluI (fun _ _ _ _ => rfl) opAnd_bitwise, resultIRR_of_aluI (fun _ _ _ _ => rfl) opOr_bitwise,
    resultIRR_of_aluI (fun _ _ _ _ => rfl) opXor_bitwise, resultIRR_of_aluI (fun _ _ _ _ => rfl) opNand_bitwise,
    resultIRR_of_aluI (fun _ _ _ _ => rfl) opNor_bitwise, resultIRR_of_aluI (fun _ _ _ _ => rfl) opXnor_bitwise⟩

/-! ### Comparisons -/

/-- The word of a condition that is a row of R159 is that row's result. -/
theorem compares_boolWord {cond : Word → Word → Bool} {less equal greater : Bool}
    (hrow : ∀ a b, cond a b = orderRow less equal greater a b) (a b : Word) :
    compares less equal greater a b (boolWord (cond a b)) := by
  rw [hrow]; rfl

/-- Settles O37: the eight are CMP-R over their condition, which is a row of R159. -/
theorem compareRegisters : Obligations.CompareRegisters := by
  unfold Obligations.CompareRegisters
  exact ⟨resultRRR_of_aluR (fun _ _ _ _ => rfl) (compares_boolWord condF_eq_row),
    resultRRR_of_aluR (fun _ _ _ _ => rfl) (compares_boolWord condEq_eq_row),
    resultRRR_of_aluR (fun _ _ _ _ => rfl) (compares_boolWord condLt_eq_row),
    resultRRR_of_aluR (fun _ _ _ _ => rfl) (compares_boolWord condLte_eq_row),
    resultRRR_of_aluR (fun _ _ _ _ => rfl) (compares_boolWord condT_eq_row),
    resultRRR_of_aluR (fun _ _ _ _ => rfl) (compares_boolWord condNe_eq_row),
    resultRRR_of_aluR (fun _ _ _ _ => rfl) (compares_boolWord condGte_eq_row),
    resultRRR_of_aluR (fun _ _ _ _ => rfl) (compares_boolWord condGt_eq_row)⟩

/-- Settles O38: the eight are CMP-I over the condition of their CMP-R form. -/
theorem compareImmediate : Obligations.CompareImmediate := by
  unfold Obligations.CompareImmediate
  exact ⟨resultIRR_of_aluI (fun _ _ _ _ => rfl) (compares_boolWord condF_eq_row),
    resultIRR_of_aluI (fun _ _ _ _ => rfl) (compares_boolWord condEq_eq_row),
    resultIRR_of_aluI (fun _ _ _ _ => rfl) (compares_boolWord condLt_eq_row),
    resultIRR_of_aluI (fun _ _ _ _ => rfl) (compares_boolWord condLte_eq_row),
    resultIRR_of_aluI (fun _ _ _ _ => rfl) (compares_boolWord condT_eq_row),
    resultIRR_of_aluI (fun _ _ _ _ => rfl) (compares_boolWord condNe_eq_row),
    resultIRR_of_aluI (fun _ _ _ _ => rfl) (compares_boolWord condGte_eq_row),
    resultIRR_of_aluI (fun _ _ _ _ => rfl) (compares_boolWord condGt_eq_row)⟩

/-! ### Immediates and constants -/

theorem imm_toInt_bounds (imm : Imm) : -32768 ≤ imm.toInt ∧ imm.toInt ≤ 32767 := by
  have hle := BitVec.le_toInt imm
  have hlt := BitVec.toInt_lt (x := imm)
  omega

theorem scaledImm_toInt (imm : Imm) : (scaledImm imm).toInt = 4 * imm.toInt := by
  obtain ⟨hle, hlt⟩ := imm_toInt_bounds imm
  have hsext : (imm.signExtend 32).toInt = imm.toInt := BitVec.toInt_signExtend_of_le (by decide)
  rw [scaledImm_eq_mul, BitVec.toInt_mul, hsext, show (4#32).toInt = 4 from rfl, mul_comm]
  exact Int.bmod_eq_of_le (by omega) (by omega)

theorem sext32_getLsbD_low (imm : Imm) {k : Nat} (hk : k < 16) : (sext32 imm).getLsbD k = imm.getLsbD k := by
  rw [sext32, BitVec.getLsbD_signExtend, if_pos hk, decide_eq_true (by omega), Bool.true_and]

theorem sext32_getLsbD_high (imm : Imm) {k : Nat} (hk : 16 ≤ k) (hk' : k < 32) :
    (sext32 imm).getLsbD k = imm.getLsbD 15 := by
  rw [sext32, BitVec.getLsbD_signExtend, if_neg (by omega), decide_eq_true hk', Bool.true_and,
    BitVec.msb_eq_getLsbD_last]

theorem scaledImm_getLsbD (imm : Imm) {k : Nat} (hk : 2 ≤ k) (hk' : k < 32) :
    (scaledImm imm).getLsbD k = (sext32 imm).getLsbD (k - 2) := by
  rw [scaledImm, BitVec.getLsbD_shiftLeft, decide_eq_true hk', decide_eq_false (by omega), Bool.not_false,
    Bool.true_and, Bool.true_and]

/-- Settles O29: the bits by those of the sign extension and of the shift, the number by `scaledImm_toInt`. -/
theorem immediateExtension : Obligations.ImmediateExtension := by
  unfold Obligations.ImmediateExtension
  intro imm
  obtain ⟨hle, hlt⟩ := imm_toInt_bounds imm
  refine ⟨fun k hk => sext32_getLsbD_low imm hk, fun k hk hk' => sext32_getLsbD_high imm hk hk', fun k hk hk' => ?_,
    fun k hk hk' => ?_, fun k hk => ?_, scaledImm_toInt imm, ?_, ?_⟩
  · rw [scaledImm_getLsbD imm (by omega) hk', sext32_getLsbD_high imm (by omega) (by omega)]
  · rw [scaledImm_getLsbD imm hk (by omega), sext32_getLsbD_low imm (by omega)]
  · simp [scaledImm, hk]
  · rw [scaledImm_toInt]; omega
  · rw [scaledImm_toInt]; omega

theorem mvhiValue_toNat (imm : Imm) (old : Word) : (mvhiValue imm old).toNat = imm.toNat * 65536 := by
  rw [mvhiValue, BitVec.toNat_append, Nat.shiftLeft_eq]
  exact Nat.or_zero _

theorem exec_mvhi (imm : Imm) (rd : Reg) (s : State) :
    exec (.mvhi imm rd) s = writeBack rd (mvhiValue imm (s.readReg rd)) s := rfl

/-- Settles O30: MVHI writes back `mvhiValue`. -/
theorem mvhiLoadsTheHighHalf : Obligations.MvhiLoadsTheHighHalf := by
  unfold Obligations.MvhiLoadsTheHighHalf
  intro imm rd s
  obtain ⟨t, ht, hw⟩ := writeBack_spec rd (mvhiValue imm (s.readReg rd)) s
  exact ⟨t, _, (exec_mvhi imm rd s).trans ht, mvhiValue_toNat _ _, hw⟩

/-- A list of instructions whose first completes goes on from the state that leaves. -/
theorem execAll_cons_of_next {i : Instr} {is : List Instr} {s t : State} (h : exec i s = .next t) :
    execAll (i :: is) s = execAll is t := by
  simp [execAll, h]

/-- A list of one instruction is that instruction. -/
theorem execAll_singleton (i : Instr) (s : State) : execAll [i] s = exec i s := by
  unfold execAll
  cases exec i s <;> rfl

/-- MVHI and then an ALU-I instruction on the same register. -/
theorem execAll_mvhi_aluI {mk : Imm → Reg → Reg → Instr} {op : Word → Word → Word}
    (hexec : ∀ imm rs1 rd s, exec (mk imm rs1 rd) s = aluI op imm rs1 rd s) (hi lo : Imm) (rd : Reg) (s : State) :
    ∃ t, execAll [.mvhi hi rd, mk lo rd rd] s = .next t ∧
      t.readReg rd = op (mvhiValue hi (s.readReg rd)) (sext32 lo) := by
  obtain ⟨u, hu, -, hval, -, -⟩ := writeBack_spec rd (mvhiValue hi (s.readReg rd)) s
  obtain ⟨t, ht, -, hres, -, -⟩ := writeBack_spec rd (op (u.readReg rd) (sext32 lo)) u
  refine ⟨t, ?_, hval ▸ hres⟩
  rw [execAll_cons_of_next ((exec_mvhi hi rd s).trans hu), execAll_singleton]
  exact (hexec lo rd rd u).trans ht

theorem mvhi_or_low (K old : Word) (h : K.getLsbD 15 = false) :
    opOr (mvhiValue (K.extractLsb' 16 16) old) (sext32 (K.extractLsb' 0 16)) = K := by
  apply BitVec.eq_of_getLsbD_eq
  intro k hk
  rw [opOr, BitVec.getLsbD_or, mvhiValue, BitVec.getLsbD_append]
  by_cases hlow : k < 16
  · simp only [if_pos hlow, sext32_getLsbD_low _ hlow, BitVec.getLsbD_zero, BitVec.getLsbD_extractLsb']
    simp [hlow]
  · simp only [if_neg hlow, sext32_getLsbD_high _ (not_lt.mp hlow) hk, BitVec.getLsbD_extractLsb']
    rw [decide_eq_true (by omega), decide_eq_true (by omega), Nat.zero_add, h, Nat.add_sub_cancel' (by omega)]
    simp

theorem mvhi_add_low (K old : Word) (h : K.getLsbD 15 = true) :
    opAdd (mvhiValue (K.extractLsb' 16 16 + 1#16) old) (sext32 (K.extractLsb' 0 16)) = K := by
  have hmsb : (K.extractLsb' 0 16).msb = true := by simp [BitVec.msb_eq_getLsbD_last, h]
  have hK : K.toNat < 2 ^ 32 := K.isLt
  apply BitVec.eq_of_toNat_eq
  rw [opAdd, BitVec.toNat_add, mvhiValue_toNat, sext32, BitVec.toNat_signExtend, hmsb]
  simp only [BitVec.toNat_add, BitVec.extractLsb'_toNat, Nat.shiftRight_eq_div_pow, BitVec.toNat_ofNat,
    BitVec.toNat_setWidth, pow_zero, Nat.div_one, if_true, Nat.reducePow, Nat.reduceSub]
  omega

/-- Settles O31: with bit 15 clear ORI fills in the low half; with bit 15 set the sign extension subtracts the one
added to the high half. -/
theorem constantsCanBeBuilt : Obligations.ConstantsCanBeBuilt := by
  unfold Obligations.ConstantsCanBeBuilt
  intro K rd s
  constructor
  · intro h
    obtain ⟨t, ht, hres⟩ := execAll_mvhi_aluI (mk := .ori) (op := opOr) (fun _ _ _ _ => rfl) _ _ rd s
    exact ⟨t, ht, hres.trans (mvhi_or_low K _ h)⟩
  · intro h
    obtain ⟨t, ht, hres⟩ := execAll_mvhi_aluI (mk := .addi) (op := opAdd) (fun _ _ _ _ => rfl) _ _ rd s
    exact ⟨t, ht, hres.trans (mvhi_add_low K _ h)⟩

end Sys2Proof
end

section
/-! PROOFS. Control flow: branches, JAL, `pc` after every instruction and the ends of runs (45_branch.md, 46_jal.md,
10_state.md section 3, 70_reset_and_hazards.md section 5). -/

namespace Sys2Proof

open Machine

/-! ### Branches -/

/-- A branch instruction is `branchIf` of what `branchOf` says of it. -/
theorem exec_of_branchOf {i : Instr} {s : State} {imm : Imm} {taken : Bool} (h : branchOf i s = some (imm, taken)) :
    exec i s = branchIf taken imm s := by
  cases i <;> cases h <;> rfl

theorem scaledImm_zero : scaledImm 0#16 = 0#32 := by decide

theorem branchTarget_zero (pc : Word) : branchTarget pc 0#16 = pc + 4#32 := by
  rw [branchTarget, scaledImm_zero, BitVec.add_zero]

/-- Settles O8: a branch with `imm = 0` goes to the next instruction whether it is taken or not, and BF is not taken. -/
theorem wordsThatOnlyAdvance : Obligations.WordsThatOnlyAdvance := by
  unfold Obligations.WordsThatOnlyAdvance
  refine ⟨by decide, fun i taken s hbr => ?_, fun imm rs2 rs1 s => branchIf_spec false imm s⟩
  rw [exec_of_branchOf hbr]
  obtain ⟨t, ht, hw⟩ := branchIf_spec taken 0 s
  have hpc : (if taken then branchTarget s.pc 0#16 else s.pc + 4#32) = s.pc + 4#32 := by
    rw [branchTarget_zero, ite_self]
  exact ⟨t, ht, hpc ▸ hw⟩

theorem branchesBy_of_branch {mk : Imm → Reg → Reg → Instr} {cond : Word → Word → Bool} {less equal greater : Bool}
    (hexec : ∀ imm rs2 rs1 s, exec (mk imm rs2 rs1) s = branch cond imm rs2 rs1 s)
    (hrow : ∀ a b, cond a b = orderRow less equal greater a b) : branchesBy mk less equal greater := by
  intro imm rs2 rs1 s
  rw [hexec, branch, hrow, ← branchTarget_eq_takenPc]
  exact branchIf_spec _ _ _

/-- Settles O39: the eight are BRANCH over their condition, which is a row of R159. -/
theorem branchesOnTwoRegisters : Obligations.BranchesOnTwoRegisters := by
  unfold Obligations.BranchesOnTwoRegisters
  exact ⟨branchesBy_of_branch (fun _ _ _ _ => rfl) condF_eq_row,
    branchesBy_of_branch (fun _ _ _ _ => rfl) condEq_eq_row, branchesBy_of_branch (fun _ _ _ _ => rfl) condLt_eq_row,
    branchesBy_of_branch (fun _ _ _ _ => rfl) condLte_eq_row, branchesBy_of_branch (fun _ _ _ _ => rfl) condT_eq_row,
    branchesBy_of_branch (fun _ _ _ _ => rfl) condNe_eq_row, branchesBy_of_branch (fun _ _ _ _ => rfl) condGte_eq_row,
    branchesBy_of_branch (fun _ _ _ _ => rfl) condGt_eq_row⟩

/-- A row of R159 against the constant zero, by the sign bit and the zero test. -/
theorem orderRow_zero (less equal greater : Bool) (a : Word) :
    orderRow less equal greater a 0#32 =
      if a.getLsbD 31 then less else if a == 0#32 then equal else greater := by
  have hsign : a.toInt < 0 ↔ a.getLsbD 31 = true := by
    rw [← BitVec.msb_eq_getLsbD_last, BitVec.msb_eq_toInt, decide_eq_true_iff]
  simp [orderRow, hsign]

theorem branchesOnZero_of_branchZero {mk : Imm → Reg → Instr} {cond : Word → Word → Bool} {less equal greater : Bool}
    {test : Bool → Bool → Bool} (hexec : ∀ imm rs1 s, exec (mk imm rs1) s = branchZero cond imm rs1 s)
    (hrow : ∀ a b, cond a b = orderRow less equal greater a b)
    (htest : ∀ a : Word, (if a.getLsbD 31 then less else if a == 0#32 then equal else greater) =
      test (a.getLsbD 31) (a == 0#32)) : branchesOnZero mk test := by
  intro imm rs1 s
  rw [hexec, branchZero, hrow, orderRow_zero, htest, ← branchTarget_eq_takenPc]
  exact branchIf_spec _ _ _

/-- Zero has its sign bit clear. -/
theorem sign_zero_cases (a : Word) :
    (a.getLsbD 31 = true ∧ (a == 0#32) = false) ∨ a.getLsbD 31 = false := by
  by_cases h : a = 0#32
  · subst h; exact .inr rfl
  · cases a.getLsbD 31 <;> simp [h]

/-- Settles O40: the six are compare-with-zero forms of the rows of R159. -/
theorem branchesOnZero : Obligations.BranchesOnZero := by
  unfold Obligations.BranchesOnZero
  refine ⟨branchesOnZero_of_branchZero (fun _ _ _ => rfl) condEq_eq_row ?_,
    branchesOnZero_of_branchZero (fun _ _ _ => rfl) condLt_eq_row ?_,
    branchesOnZero_of_branchZero (fun _ _ _ => rfl) condLte_eq_row ?_,
    branchesOnZero_of_branchZero (fun _ _ _ => rfl) condNe_eq_row ?_,
    branchesOnZero_of_branchZero (fun _ _ _ => rfl) condGte_eq_row ?_,
    branchesOnZero_of_branchZero (fun _ _ _ => rfl) condGt_eq_row ?_⟩
  all_goals
    intro a
    obtain ⟨hs, hz⟩ | hs := sign_zero_cases a
    · rw [hs, hz]; rfl
    · rw [hs]; cases a == 0#32 <;> rfl

/-! ### Targets -/

theorem scaledImm_toNat_mod (imm : Imm) : (scaledImm imm).toNat % 4 = 0 := by
  rw [scaledImm_eq_mul, BitVec.toNat_mul, show (4#32).toNat = 4 from rfl]
  omega

theorem add_scaledImm_aligned {base : Word} (imm : Imm) (h : base.toNat % 4 = 0) :
    (base + scaledImm imm).toNat % 4 = 0 := by
  have hs := scaledImm_toNat_mod imm
  rw [BitVec.toNat_add]
  omega

theorem add_four_aligned {pc : Word} (h : pc.toNat % 4 = 0) : (pc + 4#32).toNat % 4 = 0 := by
  rw [BitVec.toNat_add, show (4#32).toNat = 4 from rfl]
  omega

theorem branchTarget_aligned {pc : Word} (imm : Imm) (h : pc.toNat % 4 = 0) : (branchTarget pc imm).toNat % 4 = 0 :=
  add_scaledImm_aligned imm (add_four_aligned h)

theorem scaledImm_eq_ofInt (imm : Imm) : scaledImm imm = BitVec.ofInt 32 (4 * imm.toInt) := by
  rw [← scaledImm_toInt, BitVec.ofInt_toInt]

/-- A displacement of -4 is that of the immediate 0xFFFF alone. -/
theorem scaledImm_eq_neg_four (imm : Imm) : scaledImm imm = -4#32 ↔ imm = 0xFFFF#16 := by
  constructor
  · intro h
    have hint := scaledImm_toInt imm
    rw [h, show (-4#32).toInt = -4 from rfl] at hint
    rw [← BitVec.toInt_inj, show (0xFFFF#16).toInt = -1 from rfl]
    omega
  · rintro rfl
    decide

theorem branchTarget_eq_self (pc : Word) (imm : Imm) : branchTarget pc imm = pc ↔ imm = 0xFFFF#16 := by
  rw [← scaledImm_eq_neg_four, branchTarget]
  constructor <;> intro h <;> bv_omega

/-- Settles O41: targets by the scaled immediate's number and its alignment. -/
theorem branchTargets : Obligations.BranchTargets := by
  unfold Obligations.BranchTargets
  intro pc imm
  refine ⟨by rw [branchTarget, scaledImm_eq_ofInt], branchTarget_aligned imm, branchTarget_zero pc, ?_,
    branchTarget_eq_self pc imm⟩
  rw [branchTarget, show scaledImm 0xFFFE#16 = -8#32 by decide]
  bv_omega

/-! ### JAL -/

theorem exec_jal (imm : Imm) (rs1 rd : Reg) (s : State) :
    exec (.jal imm rs1 rd) s = .next ((s.writeReg rd s.nextPc).jump (jalTarget s rs1 imm)) := rfl

/-- Settles O42: the target is read before the link is written. -/
theorem jumpAndLink : Obligations.JumpAndLink := by
  unfold Obligations.JumpAndLink
  intro imm rs1 rd s
  refine ⟨_, exec_jal imm rs1 rd s, jalTarget_eq s rs1 imm, ?_, fun r hr => ?_, fun _ => rfl, rfl, rfl, rfl, rfl⟩
  · simp [State.nextPc]
  · simp [State.readReg_writeReg, hr]

/-- Settles O45: the link is in RD, and the first two checks of the next fetch are the faults. -/
theorem badJumpFaultsAtTheNextFetch : Obligations.BadJumpFaultsAtTheNextFetch := by
  unfold Obligations.BadJumpFaultsAtTheNextFetch
  intro imm rs1 rd s t h
  refine ⟨?_, fun hal => step_of_fetch_error (fetch_misaligned t hal),
    fun hal hout => step_of_fetch_error (fetch_outside t hal hout)⟩
  cases (exec_jal imm rs1 rd s).symm.trans h
  simp [State.nextPc]

/-! ### `pc` after an instruction -/

/-- Everything that `pc` can be after a completed instruction. -/
theorem exec_pc_cases {i : Instr} {s t : State} (h : exec i s = .next t) :
    (t.pc = s.pc + 4#32 ∧ (∀ imm, branchOf i s ≠ some (imm, true)) ∧ ∀ imm rs1 rd, i ≠ .jal imm rs1 rd) ∨
      (∃ imm, branchOf i s = some (imm, true) ∧ t.pc = branchTarget s.pc imm) ∨
      ∃ imm rs1 rd, i = .jal imm rs1 rd ∧ t.pc = jalTarget s rs1 imm := by
  obtain ⟨rd, v, -, hbr, hjal, rfl⟩ | ⟨imm, rs1, rd, v, rfl, -, rfl⟩ | ⟨imm, rs1, rs2, rfl, -, hstore⟩ |
    ⟨imm, taken, hbr, hdest, rfl⟩ | ⟨imm, rs1, rd, rfl, rfl⟩ := exec_next h
  · exact .inl ⟨rfl, fun imm => by simp [hbr], hjal⟩
  · exact .inl ⟨rfl, nofun, nofun⟩
  · refine .inl ⟨?_, nofun, nofun⟩
    obtain ⟨-, rfl⟩ | ⟨-, rfl⟩ | ⟨-, rfl⟩ := hstore <;> rfl
  · cases taken
    · exact .inl ⟨rfl, fun imm => by simp [hbr], by rintro _ _ _ rfl; cases hdest⟩
    · exact .inr (.inl ⟨imm, hbr, rfl⟩)
  · exact .inr (.inr ⟨imm, rs1, rd, rfl, rfl⟩)

/-- Settles O43: each clause excludes the other two cases of `exec_pc_cases`. -/
theorem programCounterAfterEachInstruction : Obligations.ProgramCounterAfterEachInstruction := by
  unfold Obligations.ProgramCounterAfterEachInstruction
  intro i s t h
  simp only [← branchTarget_eq_takenPc, ← jalTarget_eq]
  obtain ⟨hpc, hbr, hjal⟩ | ⟨imm, hbr, hpc⟩ | ⟨imm, rs1, rd, rfl, hpc⟩ := exec_pc_cases h
  · exact ⟨fun imm h => absurd h (hbr imm), fun imm rs1 rd h => absurd h (hjal imm rs1 rd), fun _ _ => hpc⟩
  · refine ⟨fun imm' h => ?_, ?_, fun hno => absurd hbr (hno imm)⟩
    · rw [hbr] at h; cases h; exact hpc
    · rintro _ _ _ rfl; cases hbr
  · refine ⟨nofun, ?_, fun _ hno => absurd rfl (hno imm rs1 rd)⟩
    rintro _ _ _ ⟨⟩; exact hpc

/-- Settles O44: `pc + 4` and branch targets keep the alignment of `pc`, a JAL's target that of its register. -/
theorem onlyJalMisalignsTheProgramCounter : Obligations.OnlyJalMisalignsTheProgramCounter := by
  unfold Obligations.OnlyJalMisalignsTheProgramCounter
  intro i s t h hal
  obtain ⟨hpc, -, -⟩ | ⟨imm, -, hpc⟩ | ⟨imm, rs1, rd, rfl, hpc⟩ := exec_pc_cases h
  · exact .inl (hpc ▸ add_four_aligned hal)
  · exact .inl (hpc ▸ branchTarget_aligned imm hal)
  · by_cases hbase : (s.readReg rs1).toNat % 4 = 0
    · exact .inl (hpc ▸ add_scaledImm_aligned imm hbase)
    · exact .inr ⟨imm, rs1, rd, rfl, hbase⟩

/-! ### The ends of runs -/

theorem add_four_ne (pc : Word) : pc + 4#32 ≠ pc := by bv_omega

theorem writeReg_readReg (s : State) (r : Reg) : s.writeReg r (s.readReg r) = s := by
  simp [State.writeReg, State.readReg]

/-- A taken branch to itself, or a JAL to itself whose register already holds the link. -/
def selfLoop (i : Instr) (s : State) : Prop :=
  branchOf i s = some (0xFFFF#16, true) ∨
    ∃ imm rs1 rd, i = .jal imm rs1 rd ∧ s.readReg rs1 + imm.signExtend 32 * 4#32 = s.pc ∧ s.readReg rd = s.pc + 4#32

theorem exec_selfLoop {i : Instr} {s : State} (h : selfLoop i s) : exec i s = .next s := by
  obtain hbr | ⟨imm, rs1, rd, rfl, htarget, hlink⟩ := h
  · rw [exec_of_branchOf hbr, branchIf, if_pos rfl, (branchTarget_eq_self s.pc _).mpr rfl]
    rfl
  · rw [exec_jal, jalTarget_eq, htarget, State.nextPc, ← hlink, writeReg_readReg]
    rfl

/-- An instruction that completes with the same `pc` and registers is one of the self-loops. -/
theorem selfLoop_of_exec {i : Instr} {s t : State} (h : exec i s = .next t) (hpc : t.pc = s.pc)
    (hregs : t.regs = s.regs) : selfLoop i s := by
  obtain ⟨hpc', -, -⟩ | ⟨imm, hbr, hpc'⟩ | ⟨imm, rs1, rd, rfl, hpc'⟩ := exec_pc_cases h
  · exact absurd (hpc'.symm.trans hpc) (add_four_ne s.pc)
  · obtain rfl := (branchTarget_eq_self s.pc imm).mp (hpc'.symm.trans hpc)
    exact .inl hbr
  · refine .inr ⟨imm, rs1, rd, rfl, (jalTarget_eq s rs1 imm).symm.trans (hpc'.symm.trans hpc), ?_⟩
    rw [← State.readReg_congr hregs rd]
    cases (exec_jal imm rs1 rd s).symm.trans h
    simp [State.nextPc]

theorem step_of_fetchInstr {s : State} {i : Instr} (h : fetchInstr s = .ok i) : step s = exec i s := by
  simp [step, h]

theorem endState_iff (s : State) : endState s ↔ ∃ i, fetchInstr s = .ok i ∧ selfLoop i s := by
  constructor
  · rintro ⟨t, h, hpc, hregs, -, -, -⟩
    obtain ⟨w, i, hf, hdec, hx⟩ := step_next h
    exact ⟨i, (fetchInstr_ok s i).mpr ⟨w, hf, hdec⟩, selfLoop_of_exec hx hpc hregs⟩
  · rintro ⟨i, hi, hloop⟩
    exact ⟨s, (step_of_fetchInstr hi).trans (exec_selfLoop hloop), rfl, rfl, rfl, rfl, rfl⟩

/-- Settles O46: an end of a run keeps `pc` and the registers, which only a self-loop does, and a self-loop is the
identity on the whole state. -/
theorem endsOfRunsAreSelfLoops : Obligations.EndsOfRunsAreSelfLoops := by
  unfold Obligations.EndsOfRunsAreSelfLoops
  refine fun s => ⟨endState_iff s, fun h => ?_⟩
  obtain ⟨i, hi, hloop⟩ := (endState_iff s).mp h
  exact (step_of_fetchInstr hi).trans (exec_selfLoop hloop)

end Sys2Proof
end

section
/-! PROOFS. LW and SW at every effective address, the devices, and the registers an instruction reads and writes
(42_load_store.md section 2; 20_memory.md section 2; 10_state.md section 2). -/

namespace Sys2Proof

open Machine

/-! ### LW and SW at every address -/

/-- Only the function 0000 is assigned in the opcodes of LW and SW. -/
theorem decode_error_of_fn {op : BitVec 4} (hop : op = 0b1001#4 ∨ op = 0b1000#4) {fn : BitVec 4} (hfn : fn ≠ 0b0000#4)
    (imm : Imm) (mid low : Reg) : ∃ r, decode (packImm fn op imm mid low) = .error r := by
  have hcell : ∀ mk, (onlyFnZero mk (packImm fn op imm mid low)).isNone = true := fun mk =>
    (onlyFnZero_isNone mk _).mpr ((fnOf_packImm fn op imm mid low).symm ▸ hfn)
  unfold decode
  rw [opcodeOf_packImm]
  obtain rfl | rfl := hop
  · exact (decodeImm_error _ _).mpr (hcell _)
  · exact (decodeImm_error _ _).mpr (hcell _)

theorem memRead_unmapped {a : Word} (s : State) (hal : a.toNat % 4 = 0) (hram : ¬a.toNat < 8192) (hk : a ≠ addrKey)
    (hs : a ≠ addrSwitches) : memRead a s = .error (.unmappedAddress s.pc a .load) := by
  cases hm : memRead a s with
  | error f =>
    obtain ⟨hne, -⟩ | ⟨-, -, -, -, rfl⟩ := memRead_error hm
    · exact absurd hal hne
    · rfl
  | ok r =>
    obtain ⟨-, ⟨h, -⟩ | ⟨h, -⟩ | ⟨h, -⟩⟩ := memRead_ok hm
    · exact absurd h hram
    · exact absurd h hk
    · exact absurd h hs

theorem memWrite_unmapped {a : Word} (v : Word) (s : State) (hal : a.toNat % 4 = 0) (hram : ¬a.toNat < 8192)
    (hh : a ≠ addrHex) (hl : a ≠ addrLedr) : memWrite a v s = .error (.unmappedAddress s.pc a .store) := by
  cases hm : memWrite a v s with
  | error f =>
    obtain ⟨hne, -⟩ | ⟨-, -, -, -, rfl⟩ := memWrite_error hm
    · exact absurd hal hne
    · rfl
  | ok r =>
    obtain ⟨-, ⟨h, -⟩ | ⟨h, -⟩ | ⟨h, -⟩⟩ := memWrite_ok hm
    · exact absurd h hram
    · exact absurd h hh
    · exact absurd h hl

/-- What a load of a device leaves: the draw counter moved on, RD written, nothing else. -/
theorem device_load_spec (rd : Reg) (v : Word) (s : State) :
    ∃ t, writeBack rd v { s with draws := s.draws + 1 } = .next t ∧ t.draws = s.draws + 1 ∧
      writesRegister rd v s { t with draws := s.draws } := by
  obtain ⟨t, ht, hpc, hval, hregs, hmem, hhex, hledr, hdirty, hdraws⟩ :=
    writeBack_spec rd v { s with draws := s.draws + 1 }
  exact ⟨t, ht, hdraws, hpc, hval, hregs, hmem, hhex, hledr, hdirty, rfl⟩

section Addresses

variable {imm : Imm} {rs1 r : Reg} {s : State} {ea : Word} (hea : effectiveAddress s rs1 imm = ea)

include hea

theorem exec_lw_key (h : ea = addrKey) :
    exec (.lw imm rs1 r) s = writeBack r ((Config.keyDraw s.draws).setWidth 32) { s with draws := s.draws + 1 } :=
  exec_lw_of_ok (by rw [hea, h]; exact memRead_key s)

theorem exec_lw_switches (h : ea = addrSwitches) :
    exec (.lw imm rs1 r) s = writeBack r ((Config.switchDraw s.draws).setWidth 32) { s with draws := s.draws + 1 } :=
  exec_lw_of_ok (by rw [hea, h]; exact memRead_switches s)

theorem exec_sw_ram (hal : ea.toNat % 4 = 0) (hram : ea.toNat < 8192) :
    exec (.sw imm rs1 r) s = .next (s.writeRam ea (s.readReg r)).advance :=
  exec_sw_of_ok (by rw [hea]; exact memWrite_ram _ s hal hram)

theorem exec_sw_hex (h : ea = addrHex) : exec (.sw imm rs1 r) s = .next (s.writeHex (s.readReg r)).advance :=
  exec_sw_of_ok (by rw [hea, h]; exact memWrite_hex _ s)

theorem exec_sw_ledr (h : ea = addrLedr) : exec (.sw imm rs1 r) s = .next (s.writeLedr (s.readReg r)).advance :=
  exec_sw_of_ok (by rw [hea, h]; exact memWrite_ledr _ s)

end Addresses

/-- Settles O32: the word is packed as format I, and `memRead` answers by the address. -/
theorem loadWord : Obligations.LoadWord := by
  unfold Obligations.LoadWord
  intro imm rs1 rd s
  refine ⟨decode_lw imm rs1 rd, fun fn hfn => decode_error_of_fn (.inl rfl) hfn imm rs1 rd, ?_⟩
  intro ea
  have hea : effectiveAddress s rs1 imm = ea := rfl
  split
  next hal => exact exec_lw_of_error (memRead_misaligned s hal)
  next hal =>
    have hal : ea.toNat % 4 = 0 := not_not.mp hal
    split
    next hram => exact exec_lw_ram hea hal (by omega)
    next hram =>
      split
      next hk => exact exec_lw_key hea hk ▸ device_load_spec _ _ _
      next hk =>
        split
        next hs => exact exec_lw_switches hea hs ▸ device_load_spec _ _ _
        next hs => exact exec_lw_of_error (memRead_unmapped (a := ea) s hal (by omega) hk hs)

/-- Settles O33: the word is packed as format S, and `memWrite` answers by the address. -/
theorem storeWord : Obligations.StoreWord := by
  unfold Obligations.StoreWord
  intro imm rs1 rs2 s
  refine ⟨decode_sw imm rs2 rs1, fun fn hfn => decode_error_of_fn (.inr rfl) hfn imm rs2 rs1, ?_⟩
  intro ea v
  have hea : effectiveAddress s rs1 imm = ea := rfl
  split
  next hal => exact exec_sw_of_error (memWrite_misaligned _ s hal)
  next hal =>
    have hal : ea.toNat % 4 = 0 := not_not.mp hal
    split
    next hram =>
      refine ⟨_, exec_sw_ram hea hal (by omega), rfl, fun _ => rfl, ?_, fun a ha => ?_, fun k => ?_, rfl, rfl, rfl⟩
      · exact Memory.readWord_writeWord_same _ _ _
      · exact Memory.readByte_writeWord_other _ _ _ _ ha
      · exact mem_insertIndex _ _ _
    next hram =>
      split
      next hh => exact ⟨_, exec_sw_hex hea hh, by simp [v], jump_writesPcOnly s _⟩
      next hh =>
        split
        next hl => exact ⟨_, exec_sw_ledr hea hl, by simp [v], jump_writesPcOnly s _⟩
        next hl => exact exec_sw_of_error (memWrite_unmapped (a := ea) _ s hal (by omega) hh hl)

/-! ### Devices -/

/-- A widened value has zeros above its own bits. -/
theorem getLsbD_setWidth_of_ge {n k : Nat} (x : BitVec n) (h : n ≤ k) : (x.setWidth 32).getLsbD k = false := by
  rw [BitVec.getLsbD_setWidth, BitVec.getLsbD_of_ge _ _ h, Bool.and_false]

/-- Settles O34: RD holds the drawn value widened with zeros. -/
theorem inputReadingsHaveZeroUpperBits : Obligations.InputReadingsHaveZeroUpperBits := by
  unfold Obligations.InputReadingsHaveZeroUpperBits
  intro imm rs1 rd s t h
  constructor
  · intro hea k hk
    cases (exec_lw_key (imm := imm) hea rfl).symm.trans h
    simp [getLsbD_setWidth_of_ge _ hk]
  · intro hea k hk
    cases (exec_lw_switches (imm := imm) hea rfl).symm.trans h
    simp [getLsbD_setWidth_of_ge _ hk]

/-- The latches after an instruction follow its store event. -/
def latchesFollow (event : Option OutputEvent) (s t : State) : Prop :=
  match event with
  | some (.hex shown) => t.hex = shown ∧ t.ledr = s.ledr
  | some (.ledr shown) => t.ledr = shown ∧ t.hex = s.hex
  | none => t.hex = s.hex ∧ t.ledr = s.ledr

theorem storeEvent_ram {a : Word} (v : Word) (h : a.toNat < 8192) : storeEvent a v = none := by
  have hh : a ≠ addrHex := by rintro rfl; exact absurd h (by decide)
  have hl : a ≠ addrLedr := by rintro rfl; exact absurd h (by decide)
  simp [storeEvent, hh, hl]

/-- Only SW has an event. -/
theorem outputEvent_eq_none {i : Instr} {s : State} (h : ∀ imm rs1 rs2, i ≠ .sw imm rs1 rs2) :
    outputEvent i s = none := by
  unfold outputEvent
  split
  · exact absurd rfl (h _ _ _)
  · rfl

theorem exec_latchesFollow {i : Instr} {s t : State} (h : exec i s = .next t) :
    latchesFollow (outputEvent i s) s t := by
  obtain ⟨rd, v, hdest, -, -, rfl⟩ | ⟨imm, rs1, rd, v, rfl, -, rfl⟩ | ⟨imm, rs1, rs2, rfl, -, hstore⟩ |
    ⟨imm, taken, hbr, -, rfl⟩ | ⟨imm, rs1, rd, rfl, rfl⟩ := exec_next h
  · rw [outputEvent_eq_none (by rintro _ _ _ rfl; cases hdest)]
    exact ⟨rfl, rfl⟩
  · exact ⟨rfl, rfl⟩
  · rw [outputEvent]
    obtain ⟨hram, rfl⟩ | ⟨ha, rfl⟩ | ⟨ha, rfl⟩ := hstore
    · rw [storeEvent_ram _ hram]; exact ⟨rfl, rfl⟩
    · rw [ha]; exact ⟨rfl, rfl⟩
    · rw [ha]; exact ⟨rfl, rfl⟩
  · rw [outputEvent_eq_none (by rintro _ _ _ rfl; cases hbr)]
    cases taken <;> exact ⟨rfl, rfl⟩
  · exact ⟨rfl, rfl⟩

/-- Four digits of four bits are the 16-bit number. -/
theorem hexDigits_value (s : State) : (hexDigits s).foldl (fun n d => 16 * n + d.toNat) 0 = s.hex.toNat := by
  have hlt := s.hex.isLt
  simp only [hexDigits, List.foldl_cons, List.foldl_nil, BitVec.extractLsb'_toNat, Nat.shiftRight_eq_div_pow]
  omega

/-- Settles O35: the latches after each way an instruction can complete, and the digits' value. -/
theorem outputsFollowStoreEvents : Obligations.OutputsFollowStoreEvents := by
  unfold Obligations.OutputsFollowStoreEvents
  exact ⟨fun _ _ _ => exec_latchesFollow, hexDigits_value⟩

/-- Settles O36: of the ways an instruction can complete only the store writes the RAM, a latch or a mark, and only the
device load draws. -/
theorem onlyStoresChangeMemoryAndDevices : Obligations.OnlyStoresChangeMemoryAndDevices := by
  unfold Obligations.OnlyStoresChangeMemoryAndDevices
  intro i s t h
  obtain ⟨rd, v, -, -, -, rfl⟩ | ⟨imm, rs1, rd, v, rfl, ha, rfl⟩ | ⟨imm, rs1, rs2, rfl, -, hstore⟩ |
    ⟨imm, taken, -, -, rfl⟩ | ⟨imm, rs1, rd, rfl, rfl⟩ := exec_next h
  · exact ⟨fun _ => ⟨fun _ => rfl, rfl, rfl, rfl⟩, fun _ => rfl⟩
  · refine ⟨fun _ => ⟨fun _ => rfl, rfl, rfl, rfl⟩, fun hno => ?_⟩
    obtain ⟨hk, hs⟩ := hno imm rs1 rd rfl
    exact ha.elim (absurd · hk) (absurd · hs)
  · refine ⟨fun hno => absurd rfl (hno imm rs1 rs2), fun _ => ?_⟩
    obtain ⟨-, rfl⟩ | ⟨-, rfl⟩ | ⟨-, rfl⟩ := hstore <;> rfl
  · cases taken <;> exact ⟨fun _ => ⟨fun _ => rfl, rfl, rfl, rfl⟩, fun _ => rfl⟩
  · exact ⟨fun _ => ⟨fun _ => rfl, rfl, rfl, rfl⟩, fun _ => rfl⟩

/-! ### The register an instruction writes -/

/-- Settles O47: of the ways an instruction can complete only three write a register, and that is RD. -/
theorem onlyTheNamedRegisterIsWritten : Obligations.OnlyTheNamedRegisterIsWritten := by
  unfold Obligations.OnlyTheNamedRegisterIsWritten
  intro i s t h r hr
  obtain ⟨rd, v, hdest, -, -, rfl⟩ | ⟨imm, rs1, rd, v, rfl, -, rfl⟩ | ⟨imm, rs1, rs2, rfl, -, hstore⟩ |
    ⟨imm, taken, -, -, rfl⟩ | ⟨imm, rs1, rd, rfl, rfl⟩ := exec_next h
  · exact State.readReg_writeReg_other _ _ (by rintro rfl; exact hr hdest)
  · exact State.readReg_writeReg_other _ _ (by rintro rfl; exact hr rfl)
  · obtain ⟨-, rfl⟩ | ⟨-, rfl⟩ | ⟨-, rfl⟩ := hstore <;> rfl
  · cases taken <;> rfl
  · exact State.readReg_writeReg_other _ _ (by rintro rfl; exact hr rfl)

/-! ### The registers an instruction reads -/

/-- Two answers that differ in the register file alone, and not in the register `dest` names. -/
def sameButRegisters (dest : Option Reg) (o o' : Result) : Prop :=
  (∀ f, o = .fault f → o' = .fault f) ∧
    ∀ t, o = .next t → ∃ u, o' = .next u ∧ { u with regs := t.regs } = t ∧
      ∀ rd, dest = some rd → u.readReg rd = t.readReg rd

theorem sameButRegisters_next {dest : Option Reg} {t u : State} (hrest : { u with regs := t.regs } = t)
    (hdest : ∀ rd, dest = some rd → u.readReg rd = t.readReg rd) :
    sameButRegisters dest (.next t) (.next u) := by
  refine ⟨nofun, fun t' ht => ?_⟩
  cases ht
  exact ⟨u, rfl, hrest, hdest⟩

theorem sameButRegisters_fault (dest : Option Reg) (f : Fault) : sameButRegisters dest (.fault f) (.fault f) :=
  ⟨fun _ => id, nofun⟩

section Reads

variable {s : State} {regs : Vector Word 16}

theorem writeBack_sameButRegisters (rd : Reg) (v : Word) :
    sameButRegisters (some rd) (writeBack rd v s) (writeBack rd v { s with regs := regs }) :=
  sameButRegisters_next rfl (by rintro _ ⟨⟩; simp)

theorem branchIf_sameButRegisters (taken : Bool) (imm : Imm) :
    sameButRegisters none (branchIf taken imm s) (branchIf taken imm { s with regs := regs }) := by
  cases taken <;> exact sameButRegisters_next rfl nofun

/-- A register that the two register files agree on reads the same. -/
theorem readReg_of_agree {rs : List Reg} (h : ∀ r ∈ rs, s.regs[r] = regs[r]) (r : Reg) (hr : r ∈ rs) :
    State.readReg { s with regs := regs } r = s.readReg r :=
  (h r hr).symm

theorem effectiveAddress_of_agree {rs : List Reg} (h : ∀ r ∈ rs, s.regs[r] = regs[r]) (r : Reg) (hr : r ∈ rs)
    (imm : Imm) : effectiveAddress { s with regs := regs } r imm = effectiveAddress s r imm := by
  rw [effectiveAddress, readReg_of_agree h r hr, effectiveAddress]

theorem aluR_sameButRegisters {rs2 rs1 rd : Reg} (op : Word → Word → Word)
    (h : ∀ r ∈ [rs1, rs2], s.regs[r] = regs[r]) :
    sameButRegisters (some rd) (aluR op rs2 rs1 rd s) (aluR op rs2 rs1 rd { s with regs := regs }) := by
  rw [aluR, aluR, readReg_of_agree h rs1 (by simp), readReg_of_agree h rs2 (by simp)]
  exact writeBack_sameButRegisters _ _

theorem aluI_sameButRegisters {imm : Imm} {rs1 rd : Reg} (op : Word → Word → Word)
    (h : ∀ r ∈ [rs1], s.regs[r] = regs[r]) :
    sameButRegisters (some rd) (aluI op imm rs1 rd s) (aluI op imm rs1 rd { s with regs := regs }) := by
  rw [aluI, aluI, readReg_of_agree h rs1 (by simp)]
  exact writeBack_sameButRegisters _ _

theorem cmpR_sameButRegisters {rs2 rs1 rd : Reg} (cond : Word → Word → Bool)
    (h : ∀ r ∈ [rs1, rs2], s.regs[r] = regs[r]) :
    sameButRegisters (some rd) (cmpR cond rs2 rs1 rd s) (cmpR cond rs2 rs1 rd { s with regs := regs }) :=
  aluR_sameButRegisters (fun a b => boolWord (cond a b)) h

theorem cmpI_sameButRegisters {imm : Imm} {rs1 rd : Reg} (cond : Word → Word → Bool)
    (h : ∀ r ∈ [rs1], s.regs[r] = regs[r]) :
    sameButRegisters (some rd) (cmpI cond imm rs1 rd s) (cmpI cond imm rs1 rd { s with regs := regs }) :=
  aluI_sameButRegisters (fun a b => boolWord (cond a b)) h

theorem branch_sameButRegisters {imm : Imm} {rs2 rs1 : Reg} (cond : Word → Word → Bool)
    (h : ∀ r ∈ [rs1, rs2], s.regs[r] = regs[r]) :
    sameButRegisters none (branch cond imm rs2 rs1 s) (branch cond imm rs2 rs1 { s with regs := regs }) := by
  rw [branch, branch, readReg_of_agree h rs1 (by simp), readReg_of_agree h rs2 (by simp)]
  exact branchIf_sameButRegisters _ _

theorem branchZero_sameButRegisters {imm : Imm} {rs1 : Reg} (cond : Word → Word → Bool)
    (h : ∀ r ∈ [rs1], s.regs[r] = regs[r]) :
    sameButRegisters none (branchZero cond imm rs1 s) (branchZero cond imm rs1 { s with regs := regs }) := by
  rw [branchZero, branchZero, readReg_of_agree h rs1 (by simp)]
  exact branchIf_sameButRegisters _ _

theorem jal_sameButRegisters {imm : Imm} {rs1 rd : Reg} (h : ∀ r ∈ [rs1], s.regs[r] = regs[r]) :
    sameButRegisters (some rd) (execJal imm rs1 rd s) (execJal imm rs1 rd { s with regs := regs }) := by
  have htarget : jalTarget { s with regs := regs } rs1 imm = jalTarget s rs1 imm := by
    rw [jalTarget, readReg_of_agree h rs1 (by simp), jalTarget]
  rw [execJal, execJal, htarget]
  exact sameButRegisters_next rfl (by rintro _ ⟨⟩; simp [State.nextPc])

/-- A load reads no register: with another register file it gives the same value, or the same fault. -/
theorem memRead_regs (ea : Word) : memRead ea { s with regs := regs } =
    (memRead ea s).map fun r => (r.1, { r.2 with regs := regs }) := by
  unfold memRead
  cases misaligned ea <;> cases regionOf ea <;> rfl

/-- A store reads no register but the value it is given. -/
theorem memWrite_regs (ea v : Word) : memWrite ea v { s with regs := regs } =
    (memWrite ea v s).map fun s' => { s' with regs := regs } := by
  unfold memWrite
  cases misaligned ea <;> cases regionOf ea <;> rfl

theorem lw_sameButRegisters {imm : Imm} {rs1 rd : Reg} (h : ∀ r ∈ [rs1], s.regs[r] = regs[r]) :
    sameButRegisters (some rd) (exec (.lw imm rs1 rd) s) (exec (.lw imm rs1 rd) { s with regs := regs }) := by
  have hea := effectiveAddress_of_agree h rs1 (by simp) imm
  have hm' := memRead_regs (s := s) (regs := regs) (effectiveAddress s rs1 imm)
  cases hm : memRead (effectiveAddress s rs1 imm) s with
  | error f =>
    rw [exec_lw_of_error hm, exec_lw_of_error (by rw [hea, hm', hm]; rfl)]
    exact sameButRegisters_fault _ f
  | ok r =>
    obtain ⟨v, s'⟩ := r
    rw [exec_lw_of_ok hm, exec_lw_of_ok (by rw [hea, hm', hm]; rfl)]
    exact writeBack_sameButRegisters rd v

theorem sw_sameButRegisters {imm : Imm} {rs1 rs2 : Reg} (h : ∀ r ∈ [rs1, rs2], s.regs[r] = regs[r]) :
    sameButRegisters none (exec (.sw imm rs1 rs2) s) (exec (.sw imm rs1 rs2) { s with regs := regs }) := by
  have hea := effectiveAddress_of_agree h rs1 (by simp) imm
  have h₂ := readReg_of_agree h rs2 (by simp)
  have hm' := memWrite_regs (s := s) (regs := regs) (effectiveAddress s rs1 imm) (s.readReg rs2)
  cases hm : memWrite (effectiveAddress s rs1 imm) (s.readReg rs2) s with
  | error f =>
    rw [exec_sw_of_error hm, exec_sw_of_error (by rw [hea, h₂, hm', hm]; rfl)]
    exact sameButRegisters_fault _ f
  | ok s' =>
    rw [exec_sw_of_ok hm, exec_sw_of_ok (by rw [hea, h₂, hm', hm]; rfl)]
    exact sameButRegisters_next rfl nofun

end Reads

/-- Settles O48: class by class, with a constant condition or MVHI for the instructions that read no register. -/
theorem onlyTheNamedRegistersAreRead : Obligations.OnlyTheNamedRegistersAreRead := by
  unfold Obligations.OnlyTheNamedRegistersAreRead
  intro i s regs h
  change sameButRegisters (destination i) (exec i s) (exec i { s with regs := regs })
  cases i
  case add | sub | and | or | xor | nand | nor | xnor => exact aluR_sameButRegisters _ h
  case addi | subi | andi | ori | xori | nandi | nori | xnori => exact aluI_sameButRegisters _ h
  case mvhi => exact writeBack_sameButRegisters _ _
  case lw => exact lw_sameButRegisters h
  case sw => exact sw_sameButRegisters h
  case eq | lt | lte | ne | gte | gt => exact cmpR_sameButRegisters _ h
  case eqi | lti | ltei | nei | gtei | gti => exact cmpI_sameButRegisters _ h
  case f | t | fi | ti => exact writeBack_sameButRegisters _ _
  case beq | blt | blte | bne | bgte | bgt => exact branch_sameButRegisters _ h
  case beqz | bltz | bltez | bnez | bgtez | bgtz => exact branchZero_sameButRegisters _ h
  case bf | bt => exact branchIf_sameButRegisters _ _
  case jal => exact jal_sameButRegisters h

end Sys2Proof
end

section
/-! PROOFS. The stack convention and the pseudo-instructions (42_load_store.md section 3; 47_pseudo_and_assembler.md
section 1). -/

namespace Sys2Proof

open Machine

/-! ### Push and pop -/

theorem exec_subi_spec (imm : Imm) (rs1 rd : Reg) (s : State) :
    ∃ t, exec (.subi imm rs1 rd) s = .next t ∧ writesRegister rd (s.readReg rs1 - sext32 imm) s t :=
  writeBack_spec _ _ _

theorem exec_addi_spec (imm : Imm) (rs1 rd : Reg) (s : State) :
    ∃ t, exec (.addi imm rs1 rd) s = .next t ∧ writesRegister rd (s.readReg rs1 + sext32 imm) s t :=
  writeBack_spec _ _ _

theorem effectiveAddress_zero (s : State) (rs1 : Reg) : effectiveAddress s rs1 0 = s.readReg rs1 := by
  rw [effectiveAddress, show sext32 0 = 0#32 by decide, BitVec.add_zero]

/-- A store to the RAM and a load of the same word: the stored register arrives. -/
theorem execAll_sw_lw {base rk rj : Reg} {s : State} (hj : rj ≠ base) (hal : (s.readReg base).toNat % 4 = 0)
    (hram : (s.readReg base).toNat < 8192) (rest : List Instr) :
    ∃ t, execAll (.sw 0 base rk :: .lw 0 base rj :: rest) s = execAll rest t ∧
      t.readReg rj = s.readReg rk ∧ t.readReg base = s.readReg base ∧ t.pc = s.pc + 8#32 := by
  have hsw := exec_sw_ram (r := rk) (effectiveAddress_zero s base) hal hram
  obtain ⟨t, hlw, hpc, hval, hregs, -⟩ := exec_lw_ram (rd := rj)
    (s := (s.writeRam (s.readReg base) (s.readReg rk)).advance) (effectiveAddress_zero _ base) hal hram
  refine ⟨t, ?_, ?_, hregs base hj.symm, ?_⟩
  · rw [execAll_cons_of_next hsw, execAll_cons_of_next hlw]
  · exact hval.trans (Memory.readWord_writeWord_same _ _ _)
  · rw [hpc, State.advance_pc, State.nextPc, State.writeRam_pc, BitVec.add_assoc]
    rfl

/-- Settles O49: the slot below SP is an aligned word of the RAM, and SP goes down and up by 4. -/
theorem pushThenPop : Obligations.PushThenPop := by
  unfold Obligations.PushThenPop
  intro rk rj s hk hj hal hlow hhigh
  have hfour : sext32 4 = 4#32 := by decide
  obtain ⟨s₁, hsub, hpc₁, hsp₁, hregs₁, -⟩ := exec_subi_spec 4 14 14 s
  have hslot : (s₁.readReg 14).toNat = (s.readReg 14).toNat - 4 := by
    rw [hsp₁, hfour]
    bv_omega
  obtain ⟨s₂, hrest, hval, hsp₂, hpc₂⟩ := execAll_sw_lw (rk := rk) (s := s₁) hj (by omega) (by omega) [.addi 4 14 14]
  obtain ⟨t, hadd, hpc, hsp, hregs, -⟩ := exec_addi_spec 4 14 14 s₂
  refine ⟨t, ?_, ?_, ?_, ?_⟩
  · rw [execAll_cons_of_next hsub, hrest, execAll_singleton, hadd]
  · rw [hregs rj hj, hval, hregs₁ rk hk]
  · rw [hsp, hsp₂, hsp₁, BitVec.sub_add_cancel]
  · rw [hpc, hpc₂, hpc₁, BitVec.add_assoc, BitVec.add_assoc]
    rfl

/-! ### Pseudo-instructions of one word -/

/-- Settles O50: each is the one instruction of its expansion. -/
theorem notAndCall : Obligations.NotAndCall := by
  unfold Obligations.NotAndCall
  refine ⟨fun rs rd s => ?_, fun imm rs1 s => ?_, by decide, by decide⟩
  · obtain ⟨t, ht, hw⟩ := aluR_spec opNand rs rs rd s
    refine ⟨t, _, rfl, (execAll_singleton _ s).trans ht, fun k hk => ?_, hw⟩
    exact (opNand_bitwise _ _ k hk).trans (congrArg not (Bool.and_self _))
  · obtain ⟨t, ht, hspec⟩ := jumpAndLink imm rs1 15 s
    exact ⟨t, rfl, (execAll_singleton _ s).trans ht, hspec⟩

/-- Settles O51: B is a taken branch, RET and JMP are JALs that link in R9. -/
theorem unconditionalJumps : Obligations.UnconditionalJumps := by
  unfold Obligations.UnconditionalJumps
  refine ⟨fun imm s => ?_, fun s => ?_, fun imm rs1 s => ?_⟩
  · have hbr : branchOf (.beq imm regS0 regS0) s = some (imm, true) := by simp [branchOf]
    obtain ⟨t, ht, hw⟩ := branchIf_spec true imm s
    refine ⟨t, ?_, branchTarget_eq_takenPc s.pc imm ▸ hw⟩
    exact (execAll_singleton _ s).trans ((exec_of_branchOf hbr).trans ht)
  · obtain ⟨t, ht, hpc, hspec⟩ := jumpAndLink 0 15 9 s
    refine ⟨t, (execAll_singleton _ s).trans ht, hpc.trans ?_, hspec⟩
    rw [show BitVec.signExtend 32 (0 : Imm) * 4#32 = 0#32 by decide, BitVec.add_zero]
  · obtain ⟨t, ht, hspec⟩ := jumpAndLink imm rs1 9 s
    exact ⟨t, (execAll_singleton _ s).trans ht, hspec⟩

/-! ### BLE and BGE -/

theorem boolWord_ne_zero (c : Bool) : decide (boolWord c ≠ 0#32) = c := by
  cases c <;> rfl

/-- A comparison into R6 and BNEZ of R6: the branch, counted from the second word, is taken when the comparison
holds. -/
theorem execAll_compare_bnez {mk : Reg → Reg → Reg → Instr} {cond : Word → Word → Bool}
    (hexec : ∀ rs2 rs1 rd s, exec (mk rs2 rs1 rd) s = cmpR cond rs2 rs1 rd s) (imm : Imm) (rs2 rs1 : Reg) (s : State)
    {holds : Prop} [Decidable holds] (hcond : cond (s.readReg rs1) (s.readReg rs2) = decide holds) :
    ∃ t, execAll [mk rs2 rs1 regS0, .bnez imm regS0] s = .next t ∧
      t.readReg 6 = (if holds then 1#32 else 0#32) ∧
      t.pc = (if holds then takenPc (s.pc + 4#32) imm else s.pc + 8#32) ∧
      sameRegistersBut 6 s t ∧ sameMemoryAndDevices s t := by
  obtain ⟨u, hu, hpcu, hval, hregsu, hmemu, hhexu, hledru, hdirtyu, hdrawsu⟩ :=
    writeBack_spec regS0 (boolWord (decide holds)) s
  have hfirst : exec (mk rs2 rs1 regS0) s = .next u := by rw [hexec, cmpR, hcond, hu]
  have hbr : branchOf (.bnez imm regS0) u = some (imm, decide holds) := by
    rw [branchOf, hval, boolWord_ne_zero]
  obtain ⟨t, ht, hpc, hregs, hmem, hhex, hledr, hdirty, hdraws⟩ := branchIf_spec (decide holds) imm u
  refine ⟨t, ?_, ?_, ?_, fun r hr => (hregs r).trans (hregsu r hr), fun a => (hmem a).trans (hmemu a),
    hhex.trans hhexu, hledr.trans hledru, hdirty.trans hdirtyu, hdraws.trans hdrawsu⟩
  · rw [execAll_cons_of_next hfirst, execAll_singleton, exec_of_branchOf hbr, ht]
  · exact (hregs 6).trans (hval.trans (by simp [boolWord]))
  · rw [hpc, hpcu, branchTarget_eq_takenPc, BitVec.add_assoc s.pc]
    by_cases h : holds <;> simp [h]

/-- Settles O52: both expansions compare into R6 and branch on it. -/
theorem bleAndBge : Obligations.BleAndBge := by
  unfold Obligations.BleAndBge
  exact fun imm rs2 rs1 s =>
    ⟨execAll_compare_bnez (cond := condLte) (fun _ _ _ _ => rfl) imm rs2 rs1 s rfl,
      execAll_compare_bnez (cond := condGte) (fun _ _ _ _ => rfl) imm rs2 rs1 s rfl⟩

end Sys2Proof
end

section
/-! PROOFS. The assembler: fields, names, symbols and the image (47_pseudo_and_assembler.md sections 2 to 4). -/

namespace Sys2Proof

open Machine

/-! ### Fields -/

theorem toInt_ofInt_imm {n : Int} (hlow : -32768 ≤ n) (hhigh : n ≤ 32767) : (BitVec.ofInt 16 n).toInt = n := by
  rw [BitVec.toInt_ofInt]
  exact Int.bmod_eq_of_le (by omega) (by omega)

theorem scaledImm_ofInt {n : Int} (hlow : -32768 ≤ n) (hhigh : n ≤ 32767) :
    scaledImm (BitVec.ofInt 16 n) = BitVec.ofInt 32 (4 * n) := by
  rw [scaledImm_eq_ofInt, toInt_ofInt_imm hlow hhigh]

/-- Everything a branch field that is stored can be (R243). -/
theorem branchField_ok {target pc : Int} {field : Imm} (h : branchField target pc = .ok field) :
    ∃ n, target = pc + 4 + 4 * n ∧ -32768 ≤ n ∧ n ≤ 32767 ∧ field = BitVec.ofInt 16 n := by
  unfold branchField at h
  simp only at h
  split at h
  · rename_i hc
    obtain ⟨hmod, hlow, hhigh⟩ := hc
    cases h
    exact ⟨_, by omega, hlow, hhigh, rfl⟩
  · cases h

/-- Settles O53: the scaled field is the distance from the next instruction, and distances within the RAM fit. -/
theorem branchFieldReachesItsLabel : Obligations.BranchFieldReachesItsLabel := by
  unfold Obligations.BranchFieldReachesItsLabel
  refine ⟨fun target pc field h => ?_, fun j k hj hk => ?_⟩
  · obtain ⟨n, rfl, hlow, hhigh, rfl⟩ := branchField_ok h
    rw [branchTarget, scaledImm_ofInt hlow hhigh, BitVec.ofInt_add, BitVec.ofInt_add]
    rfl
  · exact ⟨_, if_pos ⟨by omega, by omega, by omega⟩⟩

/-- Settles O54: the word index scaled by 4 is the label, and the literal rule keeps a label of the RAM. -/
theorem jalFieldReachesItsLabel : Obligations.JalFieldReachesItsLabel := by
  unfold Obligations.JalFieldReachesItsLabel
  refine ⟨fun k rs1 s hk hbase => ?_, fun k hk => ?_⟩
  · have hdiv : (4 * (k : Int)) / 4 = k := by omega
    rw [jalTarget, hbase, BitVec.zero_add, jalLabelDefault, jalField, hdiv, scaledImm_ofInt (by omega) (by omega)]
    exact BitVec.ofInt_natCast 32 (4 * k)
  · rw [jalField, BitVec.ofInt_natCast, BitVec.toNat_ofNat]
    omega

/-- Settles O55: the range is the test of `numberField`, the field the residue. -/
theorem numericImmediates : Obligations.NumericImmediates := by
  unfold Obligations.NumericImmediates
  intro n
  unfold numberField
  split
  next h =>
    refine ⟨iff_of_true ⟨_, rfl⟩ h, fun field hf => ?_⟩
    cases hf
    rw [BitVec.toNat_ofInt]
    omega
  next h => exact ⟨iff_of_false (by rintro ⟨_, ⟨⟩⟩) h, nofun⟩

/-- The value of a `.WORD`, checked and cut. -/
theorem wordValue_spec (v : Int) :
    if -2147483648 ≤ v ∧ v ≤ 4294967295 then ∃ w, wordValue v = .ok w ∧ (w.toNat : Int) = v % 4294967296
    else wordValue v = .error (.outOfRange v) := by
  unfold wordValue
  split
  next h =>
    refine ⟨_, rfl, ?_⟩
    rw [BitVec.toNat_ofInt]
    omega
  next h => rfl

/-- Settles O58: a number and a label both go through `wordValue`. -/
theorem wordDirectiveValues : Obligations.WordDirectiveValues := by
  unfold Obligations.WordDirectiveValues
  intro syms text v h
  have hword : wordOf syms text = wordValue v := by
    obtain ⟨hstart, hnum⟩ | ⟨hstart, hval⟩ := h
    · rw [wordOf, if_pos hstart, hnum]; rfl
    · rw [wordOf, hstart, hval]; rfl
  rw [hword]
  exact wordValue_spec v

/-! ### Names -/

theorem addSymbol_reserved_iff (syms : Symbols) (name : String) (value : Int) :
    addSymbol syms name value = .error (.reservedLabel name) ↔ reservedWord name = true := by
  unfold addSymbol
  split
  next h => exact iff_of_true rfl h
  next h =>
    refine iff_of_false ?_ h
    split <;> nofun

/-- Settles O59: the first check of `addSymbol` is that of the reserved words. -/
theorem reservedWordsAreRefusedInAnyLetterCase : Obligations.ReservedWordsAreRefusedInAnyLetterCase := by
  unfold Obligations.ReservedWordsAreRefusedInAnyLetterCase
  intro syms name value
  rw [addSymbol_reserved_iff, reservedWord_iff]
  simp only [lowerCase, eq_comm]

theorem reservedWord_of_registerOf {name : String} {r : Reg} (h : registerOf name = .ok r) :
    reservedWord name = true := by
  obtain ⟨u, l, hmem, hname⟩ := registerOf_ok h
  refine (reservedWord_iff name).mpr (.inr ⟨_, hmem, ?_⟩)
  obtain rfl | rfl := hname
  · rfl
  · exact (registerNames_lowerCase _ hmem).symm

/-- Settles O57: each listed name looked up, and the names found are those of the list. -/
theorem registerNames : Obligations.RegisterNames := by
  unfold Obligations.RegisterNames
  exact ⟨by decide, by decide, by decide, by decide, fun _ ⟨_, h⟩ => reservedWord_of_registerOf h⟩

/-! ### The image -/

theorem bind_eq_ok {ε α β : Type} {x : Except ε α} {f : α → Except ε β} {b : β} (h : x.bind f = .ok b) :
    ∃ a, x = .ok a ∧ f a = .ok b := by
  cases x with
  | error e => cases h
  | ok a => exact ⟨a, rfl, h⟩

/-- At most one word per index, each a RAM word. -/
def placedOnce (placed : Placed) : Prop := (placed.map Prod.fst).Nodup ∧ ∀ p ∈ placed, p.1 < ramWords

theorem placedOnce_nil : placedOnce [] := ⟨List.Pairwise.nil, nofun⟩

theorem placeWord_keeps {placed placed' : Placed} {addr : Int} {w : Word} (hp : placedOnce placed)
    (h : placeWord placed addr w = .ok placed') : placedOnce placed' := by
  obtain ⟨hal, hlow, hhigh, hfree, rfl⟩ := placeWord_ok h
  obtain ⟨hnodup, hram⟩ := hp
  have hhigh : addr < 8192 := hhigh
  refine ⟨List.nodup_cons.mpr ⟨fun hmem => ?_, hnodup⟩, fun p hp => ?_⟩
  · obtain ⟨⟨k, v⟩, hkv, hk⟩ := List.mem_map.mp hmem
    cases hk
    exact hfree v hkv
  · obtain rfl | hp := List.mem_cons.mp hp
    · change (addr / 4).toNat < 2048
      omega
    · exact hram p hp

theorem placeWords_keeps {ws : List Word} {placed placed' : Placed} {a : Int} (hp : placedOnce placed)
    (h : placeWords placed a ws = .ok placed') : placedOnce placed' := by
  induction ws generalizing placed a with
  | nil => cases h; exact hp
  | cons w ws ih =>
    obtain ⟨_, hw, hrest⟩ := bind_eq_ok h
    exact ih (placeWord_keeps hp hw) hrest

theorem emit_keeps {jalRule : JalLabelRule} {syms : Symbols} {ls : List Line} {cur : Option Int}
    {placed placed' : Placed} (hp : placedOnce placed) (h : emit jalRule syms ls cur placed = .ok placed') :
    placedOnce placed' := by
  induction ls generalizing cur placed with
  | nil => cases h; exact hp
  | cons l ls ih =>
    cases l with
    | label => exact ih hp h
    | op =>
      obtain ⟨_, -, h⟩ := bind_eq_ok h
      obtain ⟨_, -, h⟩ := bind_eq_ok h
      obtain ⟨_, -, h⟩ := bind_eq_ok h
      obtain ⟨_, hplace, h⟩ := bind_eq_ok h
      exact ih (placeWords_keeps hp hplace) h
    | orig =>
      obtain ⟨_, -, h⟩ := bind_eq_ok h
      exact ih hp h
    | word =>
      obtain ⟨_, -, h⟩ := bind_eq_ok h
      obtain ⟨_, -, h⟩ := bind_eq_ok h
      obtain ⟨_, hplace, h⟩ := bind_eq_ok h
      exact ih (placeWord_keeps hp hplace) h
    | nameDef => exact ih hp h

theorem assembleWords_placedOnce {jalRule : JalLabelRule} {program : List Line} {placed : Placed}
    (h : assembleWords jalRule program = .ok placed) : placedOnce placed := by
  obtain ⟨_, -, h⟩ := bind_eq_ok h
  exact emit_keeps placedOnce_nil h

theorem imageWord_of_mem {fill w : Word} {placed : Placed} {k : Nat} (hp : (placed.map Prod.fst).Nodup)
    (h : (k, w) ∈ placed) : imageWord fill placed k = w := by
  unfold imageWord
  split
  next p hfind =>
    have hk : p.1 = k := by simpa using List.find?_some hfind
    rw [List.inj_on_of_nodup_map hp (List.mem_of_find?_eq_some hfind) h hk]
  next hfind => simpa using List.find?_eq_none.mp hfind _ h

theorem imageWord_of_not_mem {fill : Word} {placed : Placed} {k : Nat} (h : ∀ w, (k, w) ∉ placed) :
    imageWord fill placed k = fill := by
  unfold imageWord
  split
  next p hfind =>
    have hk : p.1 = k := by simpa using List.find?_some hfind
    subst hk
    exact absurd (List.mem_of_find?_eq_some hfind) (h p.2)
  next => rfl

/-- Settles O56: the image is `imageWord` of each index, and no index is placed twice. -/
theorem assembledImageHas2048Words : Obligations.AssembledImageHas2048Words := by
  unfold Obligations.AssembledImageHas2048Words
  intro jalRule fill program image h
  obtain ⟨placed, hplaced, himage⟩ := bind_eq_ok h
  obtain rfl := Except.ok.inj himage
  obtain ⟨hnodup, hram⟩ := assembleWords_placedOnce hplaced
  have hget : ∀ k, k < ramWords →
      ((List.range ramWords).map (imageWord fill placed))[k]? = some (imageWord fill placed k) := by
    intro k hk
    simp [hk]
  refine ⟨by simp [ramWords], placed, hplaced, fun k w hkw => ?_, fun k hk hno => ?_⟩
  · rw [hget k (hram _ hkw), imageWord_of_mem hnodup hkw]
  · rw [hget k hk, imageWord_of_not_mem hno]

end Sys2Proof
end
